-- ==== Sys2Proof/Word.lean ====
section
/-! DEFINITION. The bit widths of the machine: bytes, 16-bit words, the opcode's nibble and address
fields (rules R11, R53), and the index of a general register (rule R14). -/

namespace Sys2Proof

/-- An 8-bit unsigned value: a general register, a timer, a byte of memory (R14, R21, R26). -/
abbrev Byte := BitVec 8

/-- A 16-bit unsigned value: an opcode, `I`, `PC`, a stack entry (R17, R18, R20, R52). -/
abbrev Word := BitVec 16

/-- A 4-bit field of an opcode: `digit`, `n` (R53). -/
abbrev Nibble := BitVec 4

/-- The 12-bit address field `nnn` of an opcode (R53, R55). -/
abbrev Addr := BitVec 12

/-- The index of a general register, 0 to 15; 15 is `VF` (R14, R55). -/
abbrev Reg := Fin 16

end Sys2Proof
end

