-- ==== Sys2Proof/Syntax.lean ====
section
/-! DEFINITION. The instructions: one constructor per row of spec/opcode_table.json, in the table's
order, with the fields the row names (R57, R59, R61). Ignored fields are kept, so that re-encoding
gives the word back (R61). -/

namespace Sys2Proof

/-- The 24 recognised rows of R57 and the five unrecognised groups of R59. -/
inductive Instr where
  /-- `00E0` CLS (R95). -/
  | cls
  /-- `00EE` RETURN (R67). -/
  | ret
  /-- `0nnn` NOP, every other word of digit 0 (R66). -/
  | nop (nnn : Addr)
  /-- `1nnn` JP nnn (R68). -/
  | jp (nnn : Addr)
  /-- `2nnn` CALL nnn (R69). -/
  | call (nnn : Addr)
  /-- `3xkk` SE Vx, kk (R70). -/
  | seImm (x : Reg) (kk : Byte)
  /-- `4xkk` SNE Vx, kk (R71). -/
  | sneImm (x : Reg) (kk : Byte)
  /-- `5xy0` SE Vx, Vy (R72). -/
  | seReg (x y : Reg)
  /-- `6xkk` LD Vx, kk (R80). -/
  | ldImm (x : Reg) (kk : Byte)
  /-- `7xkk` ADD Vx, kk (R81). -/
  | addImm (x : Reg) (kk : Byte)
  /-- `8xy0` LD Vx, Vy (R82). -/
  | ldReg (x y : Reg)
  /-- `8xy1` OR Vx, Vy (R83). -/
  | orReg (x y : Reg)
  /-- `8xy2` AND Vx, Vy (R84). -/
  | andReg (x y : Reg)
  /-- `8xy3` XOR Vx, Vy (R85). -/
  | xorReg (x y : Reg)
  /-- `8xy4` ADD Vx, Vy (R86). -/
  | addReg (x y : Reg)
  /-- `8xy5` SUB Vx, Vy (R87). -/
  | sub (x y : Reg)
  /-- `8xy6` SHR Vx; `y` is ignored (R88). -/
  | shr (x y : Reg)
  /-- `8xy7` SUBN Vx, Vy (R89). -/
  | subn (x y : Reg)
  /-- `8xyE` SHL Vx; `y` is ignored (R90). -/
  | shl (x y : Reg)
  /-- `9xy0` SNE Vx, Vy (R73). -/
  | sneReg (x y : Reg)
  /-- `Annn` LD I, nnn (R91). -/
  | ldI (nnn : Addr)
  /-- `Bnnn` JP V0, nnn (R74). -/
  | jpV0 (nnn : Addr)
  /-- `Cxkk` RND Vx, kk (R92). -/
  | rnd (x : Reg) (kk : Byte)
  /-- `Dxyn` DRAW Vx, Vy, n (R96). -/
  | draw (x y : Reg) (n : Nibble)
  /-- Group U5: `5xyN` with `N` not 0 (R101). -/
  | unrecognisedU5 (x y : Reg) (n : Nibble)
  /-- Group U8: `8xyN` with `N` in 8 to D, F (R102). -/
  | unrecognisedU8 (x y : Reg) (n : Nibble)
  /-- Group U9: `9xyN` with `N` not 0 (R103). -/
  | unrecognisedU9 (x y : Reg) (n : Nibble)
  /-- Group UE: `Exxx` (R104). -/
  | unrecognisedUE (nnn : Addr)
  /-- Group UF: `Fxxx` (R105). -/
  | unrecognisedUF (nnn : Addr)
deriving DecidableEq, Repr

end Sys2Proof
end

