-- ==== Sys2Proof/WellFormed.lean ====
section
/-! DEFINITION. Which terms of `Instr` stand for a word: those whose fields a higher-priority row does
not take (R56, R59, R60). Every field takes every value of its width otherwise (R55, R60). -/

namespace Sys2Proof

/-- `N` of group U8: 8, 9, A, B, C, D or F (R59, R102). -/
def isU8Nibble (n : Nibble) : Bool := decide (8 ≤ n.toNat) && n != 0xE#4

/-- The terms that some word decodes to. -/
def Instr.wellFormed : Instr → Bool
  | .cls => true
  | .ret => true
  | .nop nnn => nnn != 0x0E0#12 && nnn != 0x0EE#12
  | .jp _ => true
  | .call _ => true
  | .seImm _ _ => true
  | .sneImm _ _ => true
  | .seReg _ _ => true
  | .ldImm _ _ => true
  | .addImm _ _ => true
  | .ldReg _ _ => true
  | .orReg _ _ => true
  | .andReg _ _ => true
  | .xorReg _ _ => true
  | .addReg _ _ => true
  | .sub _ _ => true
  | .shr _ _ => true
  | .subn _ _ => true
  | .shl _ _ => true
  | .sneReg _ _ => true
  | .ldI _ => true
  | .jpV0 _ => true
  | .rnd _ _ => true
  | .draw _ _ _ => true
  | .unrecognisedU5 _ _ n => n != 0#4
  | .unrecognisedU8 _ _ n => isU8Nibble n
  | .unrecognisedU9 _ _ n => n != 0#4
  | .unrecognisedUE _ => true
  | .unrecognisedUF _ => true

end Sys2Proof
end

