-- ==== Sys2Proof/Decode.lean ====
section
/-! DEFINITION. Field extraction (R53), decoding of a word and of bytes (R37, R52, R56 to R59), the
opcode table as masks and matches (R57, R59), and the encoder (R64). -/

namespace Sys2Proof

/-! ### Byte order -/

/-- The word whose first (lower-addressed) byte is `hi`: big-endian (R37). -/
def wordOfBytes (hi lo : Byte) : Word := hi ++ lo

/-- The first byte of a word in memory (R37, R38). -/
def highByte (w : Word) : Byte := w.extractLsb' 8 8

/-- The second byte of a word in memory (R37, R38). -/
def lowByte (w : Word) : Byte := w.extractLsb' 0 8

/-! ### Fields (R53) -/

/-- `digit = opcode[15:12]`. -/
def fieldDigit (w : Word) : Nibble := w.extractLsb' 12 4

/-- `x = opcode[11:8]`, as a register index. -/
def fieldX (w : Word) : Reg := (w.extractLsb' 8 4).toFin

/-- `y = opcode[7:4]`, as a register index. -/
def fieldY (w : Word) : Reg := (w.extractLsb' 4 4).toFin

/-- `n = opcode[3:0]`. -/
def fieldN (w : Word) : Nibble := w.extractLsb' 0 4

/-- `nnn = opcode[11:0]`. -/
def fieldNNN (w : Word) : Addr := w.extractLsb' 0 12

/-- `kk = opcode[7:0]`. -/
def fieldKK (w : Word) : Byte := w.extractLsb' 0 8

/-! ### Decoding a word -/

/-- Digit 0: the two fully specified patterns before the no-op (R56). -/
def decodeDigit0 (w : Word) : Instr :=
  if w = 0x00E0#16 then .cls
  else if w = 0x00EE#16 then .ret
  else .nop (fieldNNN w)

/-- Digit 5: `5xy0`, else group U5 (R57, R59). -/
def decodeDigit5 (w : Word) : Instr :=
  if fieldN w = 0#4 then .seReg (fieldX w) (fieldY w)
  else .unrecognisedU5 (fieldX w) (fieldY w) (fieldN w)

/-- Digit 8: the nine sub-opcodes 0 to 7 and E, else group U8 (R57, R59, R93). -/
def decodeDigit8 (w : Word) : Instr :=
  if fieldN w = 0#4 then .ldReg (fieldX w) (fieldY w)
  else if fieldN w = 1#4 then .orReg (fieldX w) (fieldY w)
  else if fieldN w = 2#4 then .andReg (fieldX w) (fieldY w)
  else if fieldN w = 3#4 then .xorReg (fieldX w) (fieldY w)
  else if fieldN w = 4#4 then .addReg (fieldX w) (fieldY w)
  else if fieldN w = 5#4 then .sub (fieldX w) (fieldY w)
  else if fieldN w = 6#4 then .shr (fieldX w) (fieldY w)
  else if fieldN w = 7#4 then .subn (fieldX w) (fieldY w)
  else if fieldN w = 0xE#4 then .shl (fieldX w) (fieldY w)
  else .unrecognisedU8 (fieldX w) (fieldY w) (fieldN w)

/-- Digit 9: `9xy0`, else group U9 (R57, R59). -/
def decodeDigit9 (w : Word) : Instr :=
  if fieldN w = 0#4 then .sneReg (fieldX w) (fieldY w)
  else .unrecognisedU9 (fieldX w) (fieldY w) (fieldN w)

/-- The instruction a word stands for. Total: every word has one (R58); the last branch is digit F. -/
def decodeWord (w : Word) : Instr :=
  let d := fieldDigit w
  if d = 0x0#4 then decodeDigit0 w
  else if d = 0x1#4 then .jp (fieldNNN w)
  else if d = 0x2#4 then .call (fieldNNN w)
  else if d = 0x3#4 then .seImm (fieldX w) (fieldKK w)
  else if d = 0x4#4 then .sneImm (fieldX w) (fieldKK w)
  else if d = 0x5#4 then decodeDigit5 w
  else if d = 0x6#4 then .ldImm (fieldX w) (fieldKK w)
  else if d = 0x7#4 then .addImm (fieldX w) (fieldKK w)
  else if d = 0x8#4 then decodeDigit8 w
  else if d = 0x9#4 then decodeDigit9 w
  else if d = 0xA#4 then .ldI (fieldNNN w)
  else if d = 0xB#4 then .jpV0 (fieldNNN w)
  else if d = 0xC#4 then .rnd (fieldX w) (fieldKK w)
  else if d = 0xD#4 then .draw (fieldX w) (fieldY w) (fieldN w)
  else if d = 0xE#4 then .unrecognisedUE (fieldNNN w)
  else .unrecognisedUF (fieldNNN w)

/-! ### Decoding bytes -/

/-- Why bytes hold no instruction: an instruction is always two bytes (R52). -/
inductive DecodeError where
  /-- There is no byte at all. -/
  | noBytes
  /-- There is one byte and the second is missing. -/
  | secondByteMissing
deriving DecidableEq, Repr

/-- The instruction at the front of a byte sequence, with the bytes after it (R37, R52). -/
def decode : List Byte → Except DecodeError (Instr × List Byte)
  | [] => .error .noBytes
  | [_] => .error .secondByteMissing
  | hi :: lo :: rest => .ok (decodeWord (wordOfBytes hi lo), rest)

/-! ### Encoding (R64) -/

/-- Format `NNN`: `digit × 4096 + nnn`. -/
def packNNN (digit : Nibble) (nnn : Addr) : Word := digit ++ nnn

/-- Format `XKK`: `digit × 4096 + x × 256 + kk`. -/
def packXKK (digit : Nibble) (x : Reg) (kk : Byte) : Word :=
  digit ++ (BitVec.ofFin x : Nibble) ++ kk

/-- Formats `XY` and `XYN`: `digit × 4096 + x × 256 + y × 16 + n`. -/
def packXYN (digit : Nibble) (x y : Reg) (n : Nibble) : Word :=
  digit ++ (BitVec.ofFin x : Nibble) ++ (BitVec.ofFin y : Nibble) ++ n

/-- The word of a well-formed instruction, from the encoding column of each row (R57, R59, R64). -/
def encode : Instr → Word
  | .cls => 0x00E0#16
  | .ret => 0x00EE#16
  | .nop nnn => packNNN 0x0#4 nnn
  | .jp nnn => packNNN 0x1#4 nnn
  | .call nnn => packNNN 0x2#4 nnn
  | .seImm x kk => packXKK 0x3#4 x kk
  | .sneImm x kk => packXKK 0x4#4 x kk
  | .seReg x y => packXYN 0x5#4 x y 0x0#4
  | .ldImm x kk => packXKK 0x6#4 x kk
  | .addImm x kk => packXKK 0x7#4 x kk
  | .ldReg x y => packXYN 0x8#4 x y 0x0#4
  | .orReg x y => packXYN 0x8#4 x y 0x1#4
  | .andReg x y => packXYN 0x8#4 x y 0x2#4
  | .xorReg x y => packXYN 0x8#4 x y 0x3#4
  | .addReg x y => packXYN 0x8#4 x y 0x4#4
  | .sub x y => packXYN 0x8#4 x y 0x5#4
  | .shr x y => packXYN 0x8#4 x y 0x6#4
  | .subn x y => packXYN 0x8#4 x y 0x7#4
  | .shl x y => packXYN 0x8#4 x y 0xE#4
  | .sneReg x y => packXYN 0x9#4 x y 0x0#4
  | .ldI nnn => packNNN 0xA#4 nnn
  | .jpV0 nnn => packNNN 0xB#4 nnn
  | .rnd x kk => packXKK 0xC#4 x kk
  | .draw x y n => packXYN 0xD#4 x y n
  | .unrecognisedU5 x y n => packXYN 0x5#4 x y n
  | .unrecognisedU8 x y n => packXYN 0x8#4 x y n
  | .unrecognisedU9 x y n => packXYN 0x9#4 x y n
  | .unrecognisedUE nnn => packNNN 0xE#4 nnn
  | .unrecognisedUF nnn => packNNN 0xF#4 nnn

/-- The two bytes of an instruction in memory, the high byte first (R37, R52). -/
def encodeBytes (i : Instr) : List Byte := [highByte (encode i), lowByte (encode i)]

/-! ### The opcode table (R57, R59): its masks and matches in priority order -/

/-- The `(mask, match)` column of the 29 rows of the table, first match wins (R56). -/
def opcodeRows : List (Word × Word) :=
  [(0xFFFF, 0x00E0), (0xFFFF, 0x00EE), (0xF000, 0x0000), (0xF000, 0x1000), (0xF000, 0x2000),
   (0xF000, 0x3000), (0xF000, 0x4000), (0xF00F, 0x5000), (0xF000, 0x6000), (0xF000, 0x7000),
   (0xF00F, 0x8000), (0xF00F, 0x8001), (0xF00F, 0x8002), (0xF00F, 0x8003), (0xF00F, 0x8004),
   (0xF00F, 0x8005), (0xF00F, 0x8006), (0xF00F, 0x8007), (0xF00F, 0x800E), (0xF00F, 0x9000),
   (0xF000, 0xA000), (0xF000, 0xB000), (0xF000, 0xC000), (0xF000, 0xD000), (0xF000, 0x5000),
   (0xF000, 0x8000), (0xF000, 0x9000), (0xF000, 0xE000), (0xF000, 0xF000)]

/-- The position, counted from 0, of the first row a word matches. -/
def firstMatchingRow (w : Word) : Option Nat :=
  opcodeRows.findIdx? (fun r => w &&& r.1 == r.2)

/-- The position of a constructor's row in the table, counted from 0. -/
def Instr.row : Instr → Nat
  | .cls => 0
  | .ret => 1
  | .nop _ => 2
  | .jp _ => 3
  | .call _ => 4
  | .seImm _ _ => 5
  | .sneImm _ _ => 6
  | .seReg _ _ => 7
  | .ldImm _ _ => 8
  | .addImm _ _ => 9
  | .ldReg _ _ => 10
  | .orReg _ _ => 11
  | .andReg _ _ => 12
  | .xorReg _ _ => 13
  | .addReg _ _ => 14
  | .sub _ _ => 15
  | .shr _ _ => 16
  | .subn _ _ => 17
  | .shl _ _ => 18
  | .sneReg _ _ => 19
  | .ldI _ => 20
  | .jpV0 _ => 21
  | .rnd _ _ => 22
  | .draw _ _ _ => 23
  | .unrecognisedU5 _ _ _ => 24
  | .unrecognisedU8 _ _ _ => 25
  | .unrecognisedU9 _ _ _ => 26
  | .unrecognisedUE _ => 27
  | .unrecognisedUF _ => 28

/-! ### The host's numbering of a table row's bits -/

/-- The bytes of the word whose bits the table numbers as `w`, bit 0 the least significant: the low
`nbits` bits of `w`, every bit above them 0, laid out high byte first (R37). -/
def tableBytes (nbits w : Nat) : List Byte :=
  let v : Word := BitVec.ofNat 16 (w % 2 ^ nbits)
  [highByte v, lowByte v]

/-- What the decoder reads from that word. -/
def decodeTableWord (nbits w : Nat) : Option Instr :=
  match decode (tableBytes nbits w) with
  | .ok (i, _) => some i
  | .error _ => none

end Sys2Proof
end

