-- ==== Sys2Proof/Config.lean ====
section
/-! DEFINITION. The parameters of the hardware with the values of rule R7, the two parameters a model
may expose (`STRICT_UNIMPL`, `VF_ALIAS_ORDER`: 92_eei_decisions.md, open-parameter table), and the one
free value, the random byte of rule R27. -/

namespace Sys2Proof.Config

/-- `MEM_SIZE`: addresses 0x000 to 0xFFF (R7, R33). -/
@[simp] abbrev memSize : Nat := 4096

/-- `PROGRAM_BASE`: where a program image is copied (R7, R44). -/
@[simp] abbrev programBase : Nat := 0x200

/-- `MAX_PROGRAM_LEN`: 4096 - 0x200 bytes (R7, R44). -/
@[simp] abbrev maxProgramLen : Nat := 3584

/-- `PC_RESET`: the entry point (R7, R28). -/
@[simp] abbrev pcReset : Word := 0x200

/-- `STACK_CAPACITY`: 16 entries for this hardware (R7, R20, D2). -/
@[simp] abbrev stackCapacity : Nat := 16

/-- `VF_ALIAS_ORDER` (R7, R79, D7): whether the result statement of `8xy5`, `8xy6`, `8xy7`, `8xyE`
reads the registers the flag statement left (`sequential`, this hardware) or those of before the
instruction (`latched`, the reading set aside). -/
inductive AliasOrder where
  | sequential
  | latched
deriving DecidableEq, Repr

/-- The parameters an instance of the machine is built with (R7). They are not architectural state
(R27): no event writes them. DESIGN CHOICE, log entry 2: a state carries those of its machine. -/
structure Params where
  /-- `STRICT_UNIMPL` (R100, D1). -/
  strictUnimpl : Bool
  /-- `VF_ALIAS_ORDER` (R79, D7). -/
  vfAliasOrder : AliasOrder
deriving DecidableEq, Repr

/-- The values rule R7 gives this hardware: lenient, sequential. -/
def Params.hardware : Params := { strictUnimpl := false, vfAliasOrder := .sequential }

/-- `random_byte()` (R27, R92, D9): the byte of the k-th draw. A free value under no law: it has no
body, so nothing can be proved of it (log entry 1). -/
opaque randomByte : Nat → Byte

end Sys2Proof.Config
end

