-- ==== Sys2Proof/Machine/State.lean ====
section
/-! DEFINITION. The state of the machine as plain data (R13), its reset values (R28), the fault latch's
codes (R25, R106), and the reasons a step can stop. -/

namespace Sys2Proof.Machine

open Sys2Proof

/-- The values of the `FAULT` latch (R25, R106), in the order of their codes 0 to 6. -/
inductive FaultCode where
  /-- Code 0: no fault since reset. -/
  | clear
  /-- Code 1: a program too long (R107). -/
  | loadError
  /-- Code 2: an unrecognised word under `STRICT_UNIMPL` (R108). -/
  | unimplementedOpcode
  /-- Code 3: `CALL` with the stack full (R109). -/
  | stackOverflow
  /-- Code 4: `RETURN` with the stack empty (R110). -/
  | stackUnderflow
  /-- Code 5: `PC` above 0xFFE at fetch (R111). -/
  | fetchOutOfRange
  /-- Code 6: a sprite beyond 0xFFF (R112). -/
  | dataOutOfRange
deriving DecidableEq, Repr

/-- What a fault reports (R106, column "reports"). The latch keeps the code only. -/
inductive FaultReport where
  /-- The length of the refused image. -/
  | loadError (len : Nat)
  /-- `PC` and the word. -/
  | unimplementedOpcode (pc : Word) (word : Word)
  /-- `PC`. -/
  | stackOverflow (pc : Word)
  /-- `PC`. -/
  | stackUnderflow (pc : Word)
  /-- `PC`. -/
  | fetchOutOfRange (pc : Word)
  /-- `PC`, `I` and `n`. -/
  | dataOutOfRange (pc i : Word) (n : Nibble)
deriving DecidableEq, Repr

/-- The frame buffer `FB[cx][cy]`: 64 columns of 32 cells (R23). -/
abbrev FrameBuffer := Vector (Vector Bool 32) 64

/-- `MEM` as the bytes that differ from the reset value 0, by strictly rising address (R26, R28). -/
abbrev Memory := List Host.Cell

/-- The architectural state of R13, and two fields of the model's own: `params`, the parameters the
machine is built with (R7; log entry 2), and `draws`, how many random bytes were consumed, which makes
every draw of R27 a fresh free value (log entry 1). -/
structure State where
  /-- `V[0]` to `V[15]` (R14, R15). -/
  v : Vector Byte 16
  /-- `I` (R17). -/
  i : Word
  /-- `PC` (R18). -/
  pc : Word
  /-- `SP` (R19). -/
  sp : Byte
  /-- `STACK[0]` to `STACK[15]` (R20). -/
  stack : Vector Word 16
  /-- `DT` (R21). -/
  dt : Byte
  /-- `ST` (R22). -/
  st : Byte
  /-- `FB` (R23). -/
  fb : FrameBuffer
  /-- `KEY[0]` to `KEY[15]` (R24). -/
  key : Vector Bool 16
  /-- `MEM` (R26). -/
  mem : Memory
  /-- `FAULT` (R25). -/
  fault : FaultCode
  /-- The parameters of this machine (R7). -/
  params : Config.Params
  /-- How many random bytes were drawn. -/
  draws : Nat
deriving DecidableEq, Repr

/-- Where a step stops without a next state. The faults of R106 are NOT here: the spec describes the
state they leave (R113, R115), so they are next states with the latch set. -/
inductive Fault where
  /-- Raised by `RETURN` (`execRet`) when `SP` is above 16, so that the entry it would pop does not
  exist: R19 excludes such a state and R20 gives the stack 16 entries. Safe: the model stops where the
  spec gives nothing (log entry 5). -/
  | stackEntryAbsent (index : Nat)
deriving DecidableEq, Repr

/-- Why a step has no meaning. -/
inductive Refusal where
  /-- An instruction without a meaning yet, rejected by name in its arm of `exec`; every instruction
  has its meaning, so no arm raises it. Safe. -/
  | notModelled (mnemonic : String)
deriving DecidableEq, Repr

/-- What executing an instruction answers. -/
abbrev Answer := Host.Outcome State Fault Refusal

/-- The state after reset: everything zero but `PC = 0x200` (R28, R132). The parameters are those R7
gives; `draws` is 0 by DESIGN CHOICE (log entry 1). -/
def State.reset : State where
  v := Vector.replicate 16 0
  i := 0
  pc := Config.pcReset
  sp := 0
  stack := Vector.replicate 16 0
  dt := 0
  st := 0
  fb := Vector.replicate 64 (Vector.replicate 32 false)
  key := Vector.replicate 16 false
  mem := []
  fault := .clear
  params := Config.Params.hardware
  draws := 0

end Sys2Proof.Machine
end

