-- ==== Sys2Proof/Machine/Ops.lean ====
section
/-! DEFINITION. The named operations on the state: registers, `PC`, the call stack, the frame buffer,
memory (R12, R36, R37, R43, R65), and taking a fault (R106, R113). -/

namespace Sys2Proof.Machine

open Sys2Proof

/-! ### Registers and PC -/

/-- `V[x]` (R12). -/
def State.reg (s : State) (x : Reg) : Byte := s.v[x.val]

/-- `V[x] <- b` (R12). -/
def State.setReg (x : Reg) (b : Byte) (s : State) : State := { s with v := s.v.set x.val b }

/-- The index of `VF` (R15). -/
@[simp] abbrev vf : Reg := 15

/-- `I <- w`. -/
def State.setI (w : Word) (s : State) : State := { s with i := w }

/-- `PC <- target` (R65). -/
def State.setPc (w : Word) (s : State) : State := { s with pc := w }

/-- `advance(k)`: `PC <- (PC + k) mod 65536` (R12, R65). -/
def State.advance (k : Nat) (s : State) : State := s.setPc (s.pc + BitVec.ofNat 16 k)

/-- `advance(4)` if the condition holds, else `advance(2)` (R65, R70 to R73). -/
def State.skipIf (c : Bool) (s : State) : State := if c then s.advance 4 else s.advance 2

/-! ### The call stack (R19, R20) -/

/-- `STACK[k]`; there is no entry from 16 on. -/
def State.stackEntry (s : State) (k : Nat) : Option Word := s.stack[k]?

/-- `STACK[SP] <- w; SP <- SP + 1` (R69). Used below capacity only. -/
def State.push (w : Word) (s : State) : State :=
  { s with stack := s.stack.setIfInBounds s.sp.toNat w, sp := s.sp + 1 }

/-- `SP <- SP - 1` (R67); the popped entry keeps its value (R20). -/
def State.dropTop (s : State) : State := { s with sp := s.sp - 1 }

/-! ### The frame buffer (R23) -/

/-- `FB[cx][cy]`. -/
def FrameBuffer.cell (fb : FrameBuffer) (cx : Fin 64) (cy : Fin 32) : Bool := fb[cx.val][cy.val]

/-- `FB[cx][cy] <- not FB[cx][cy]`. -/
def FrameBuffer.toggle (fb : FrameBuffer) (cx : Fin 64) (cy : Fin 32) : FrameBuffer :=
  fb.set cx.val (fb[cx.val].set cy.val (!fb[cx.val][cy.val]))

/-- Every cell false (R95). -/
def FrameBuffer.blank : FrameBuffer := Vector.replicate 64 (Vector.replicate 32 false)

/-- `FB[cx][cy]` of a state. -/
def State.cell (s : State) (cx : Fin 64) (cy : Fin 32) : Bool := FrameBuffer.cell s.fb cx cy

/-- Replace the frame buffer. -/
def State.setFb (fb : FrameBuffer) (s : State) : State := { s with fb := fb }

/-! ### Memory (R26, R33, R36, R43) -/

/-- What a list of cells holds at an address: an unlisted address holds its reset value 0 (R28). -/
def Memory.read : Memory → Nat → Byte
  | [], _ => 0
  | (a, b) :: rest, k => if k = a then b else Memory.read rest k

/-- Put a byte at an address, keeping the addresses rising and listing no 0. -/
def Memory.insert : Memory → Nat → Byte → Memory
  | [], k, b => if b = 0 then [] else [(k, b)]
  | (a, c) :: rest, k, b =>
    if k < a then (if b = 0 then (a, c) :: rest else (k, b) :: (a, c) :: rest)
    else if k = a then (if b = 0 then rest else (k, b) :: rest)
    else (a, c) :: Memory.insert rest k b

/-- The canonical form, from a least address on: addresses strictly rising and below 0x1000, no 0. -/
def Memory.wfFrom : Nat → Memory → Bool
  | _, [] => true
  | lo, (a, b) :: rest =>
    decide (lo ≤ a) && decide (a < Config.memSize) && b != 0 && Memory.wfFrom (a + 1) rest

/-- The canonical form of memory. -/
def Memory.wf (m : Memory) : Bool := Memory.wfFrom 0 m

/-- `MemRead(addr, 1)` (R36): nothing above 0xFFF, no wrap-around. -/
def State.memRead1 (s : State) (addr : Nat) : Option Byte :=
  if addr < Config.memSize then some (Memory.read s.mem addr) else none

/-- `MemRead(addr, 2)` (R37): big-endian, both bytes must exist. -/
def State.memRead2 (s : State) (addr : Nat) : Option Word :=
  match s.memRead1 addr, s.memRead1 (addr + 1) with
  | some hi, some lo => some (wordOfBytes hi lo)
  | _, _ => none

/-- `MemWrite(addr, 1, b)` (R43), for addresses 0 to 0xFFF; an address above is none and nothing is
written there (no event reaches that, log entry 6). -/
def State.memWrite (addr : Nat) (b : Byte) (s : State) : State :=
  if addr < Config.memSize then { s with mem := Memory.insert s.mem addr b } else s

/-- `MemWrite(addr + k, 1, bytes[k])` for each byte in turn (R44). -/
def State.memWriteAll : Nat → List Byte → State → State
  | _, [], s => s
  | addr, b :: rest, s => State.memWriteAll (addr + 1) rest (s.memWrite addr b)

/-- The word at `PC`, if `PC ≤ 0xFFE` (R40, R51). -/
def State.fetch (s : State) : Option Word := s.memRead2 s.pc.toNat

/-! ### Taking a fault (R106, R113) -/

/-- The code a fault leaves in the latch (R106). -/
def FaultReport.code : FaultReport → FaultCode
  | .loadError _ => .loadError
  | .unimplementedOpcode _ _ => .unimplementedOpcode
  | .stackOverflow _ => .stackOverflow
  | .stackUnderflow _ => .stackUnderflow
  | .fetchOutOfRange _ => .fetchOutOfRange
  | .dataOutOfRange _ _ _ => .dataOutOfRange

/-- `raise <Fault>(info)` (R12, R113): the latch takes the code if it was clear, and nothing else
changes; `PC` stays at the faulting instruction. There is no return (R115): `Reset` alone clears the
latch. -/
def State.raise (r : FaultReport) (s : State) : State :=
  { s with fault := if s.fault = .clear then r.code else s.fault }

/-- The number of a code (R25). -/
def FaultCode.number : FaultCode → Nat
  | .clear => 0
  | .loadError => 1
  | .unimplementedOpcode => 2
  | .stackOverflow => 3
  | .stackUnderflow => 4
  | .fetchOutOfRange => 5
  | .dataOutOfRange => 6

/-! ### The random byte (R27) -/

/-- `rnd`: the byte of the next draw, a free value. -/
def State.rndByte (s : State) : Byte := Config.randomByte s.draws

/-- Count one draw as consumed, so that the next one is fresh. -/
def State.consumeDraw (s : State) : State := { s with draws := s.draws + 1 }

end Sys2Proof.Machine
end

