-- ==== Sys2Proof/Machine/Flags.lean ====
section
/-! DEFINITION. Every flag computation of the instruction set (R15, R78): carry, not-borrow, the bits
shifted out, and the write of a flag to `VF`. The collision flag is computed in Display.lean (R96). -/

namespace Sys2Proof.Machine

open Sys2Proof

/-- A flag as `VF` holds it: 1 or 0. -/
def flagByte (f : Bool) : Byte := if f then 1 else 0

/-- Carry of `8xy4`: the widened sum exceeds 255 (R86). -/
def carryOut (a b : Byte) : Bool := decide (255 < a.toNat + b.toNat)

/-- Not-borrow of `minuend - subtrahend`: `minuend ≥ subtrahend`, equality included (R87, R89). -/
def noBorrow (minuend subtrahend : Byte) : Bool := decide (subtrahend.toNat ≤ minuend.toNat)

/-- The bit `SHR` shifts out: bit 0 (R88). -/
def shiftedOutRight (a : Byte) : Bool := a.getLsbD 0

/-- The bit `SHL` shifts out: bit 7 (R90). -/
def shiftedOutLeft (a : Byte) : Bool := a.getLsbD 7

/-- `V[0xF] <- f` (R15). -/
def State.setVF (f : Bool) (s : State) : State := s.setReg vf (flagByte f)

end Sys2Proof.Machine
end

