-- ==== Sys2Proof/Machine/Operands.lean ====
section
/-! DEFINITION. Every operand form (R55): the zero-extended address immediate, the offset target of
`Bnnn`, the registers a result statement reads (R79, D7), sprite rows and wrapped pixel coordinates
(R41, R94). Register and byte operands are `State.reg` and the field itself. -/

namespace Sys2Proof.Machine

open Sys2Proof

/-- `zext_16(nnn)` (R55, R68). -/
def zext16 (nnn : Addr) : Word := nnn.setWidth 16

/-- `zext_16(nnn) + zext_16(V[0])` (R74): at most 0x10FE, so it never wraps. -/
def State.offsetTarget (s : State) (nnn : Addr) : Word := zext16 nnn + (s.reg 0).setWidth 16

/-- The registers the result statement of a flag-writing instruction reads (R79, D7): those the flag
statement left (`flagged`), or under `latched` those of before the instruction. -/
def State.resultSource (s flagged : State) : State :=
  match s.params.vfAliasOrder with
  | .sequential => flagged
  | .latched => s

/-- The shape of `8xy5`, `8xy6`, `8xy7`, `8xyE`: `V[0xF] <- f; V[x] <- result; advance(2)`, in that
order (R79). -/
def State.flagThenResult (f : Bool) (x : Reg) (result : State → Byte) (s : State) : State :=
  let flagged := s.setVF f
  (flagged.setReg x (result (s.resultSource flagged))).advance 2

/-- Whether the last of `n` sprite bytes at `I` lies above 0xFFF; `n = 0` reads nothing (R41). -/
def State.spriteOutOfRange (s : State) (n : Nibble) : Bool :=
  decide (1 ≤ n.toNat ∧ 0xFFF < s.i.toNat + n.toNat - 1)

/-- The `n` bytes of memory from `I` on, first row first (R41, R94). -/
def State.spriteRows (s : State) (n : Nibble) : List Byte :=
  (List.range n.toNat).map (fun r => Memory.read s.mem (s.i.toNat + r))

/-- Column of a sprite pixel: `(px + col) mod 64` (R94). -/
def wrapColumn (px : Byte) (col : Nat) : Fin 64 := Fin.ofNat 64 (px.toNat + col)

/-- Row of a sprite pixel: `(py + row) mod 32` (R94). -/
def wrapRow (py : Byte) (row : Nat) : Fin 32 := Fin.ofNat 32 (py.toNat + row)

end Sys2Proof.Machine
end

