-- ==== Sys2Proof/Machine/Control.lean ====
section
/-! DEFINITION. The control-flow instructions (40_control_flow.md, R66 to R74). -/

namespace Sys2Proof.Machine

open Sys2Proof

/-- `0nnn` NOP: only `advance(2)`, also under `STRICT_UNIMPL` (R66). -/
def execNop (_nnn : Addr) (s : State) : Answer := .next (s.advance 2)

/-- `00EE` RETURN (R67, R110). -/
def execRet (s : State) : Answer :=
  if s.sp = 0 then .next (s.raise (.stackUnderflow s.pc))
  else
    match s.stackEntry (s.sp.toNat - 1) with
    | some target => .next (s.dropTop.setPc target)
    | none => .fault (.stackEntryAbsent (s.sp.toNat - 1))

/-- `1nnn` JP nnn (R68). -/
def execJp (nnn : Addr) (s : State) : Answer := .next (s.setPc (zext16 nnn))

/-- `2nnn` CALL nnn: pushes the address after itself (R69, R109, conflict C1). -/
def execCall (nnn : Addr) (s : State) : Answer :=
  if Config.stackCapacity ≤ s.sp.toNat then .next (s.raise (.stackOverflow s.pc))
  else .next ((s.push (s.pc + 2)).setPc (zext16 nnn))

/-- `3xkk` SE Vx, kk (R70). -/
def execSeImm (x : Reg) (kk : Byte) (s : State) : Answer := .next (s.skipIf (s.reg x == kk))

/-- `4xkk` SNE Vx, kk (R71). -/
def execSneImm (x : Reg) (kk : Byte) (s : State) : Answer := .next (s.skipIf (s.reg x != kk))

/-- `5xy0` SE Vx, Vy (R72). -/
def execSeReg (x y : Reg) (s : State) : Answer := .next (s.skipIf (s.reg x == s.reg y))

/-- `9xy0` SNE Vx, Vy (R73). -/
def execSneReg (x y : Reg) (s : State) : Answer := .next (s.skipIf (s.reg x != s.reg y))

/-- `Bnnn` JP V0, nnn: lands exactly on `nnn + V0` (R74, conflict C2). -/
def execJpV0 (nnn : Addr) (s : State) : Answer := .next (s.setPc (s.offsetTarget nnn))

end Sys2Proof.Machine
end

