-- ==== Sys2Proof/Machine/Data.lean ====
section
/-! DEFINITION. Data movement and ALU (41_data_alu.md, R80 to R92). Each ends with `advance(2)` and
none faults. -/

namespace Sys2Proof.Machine

open Sys2Proof

/-- `V[x] <- b; advance(2)`. -/
def State.loadReg (x : Reg) (b : Byte) (s : State) : State := (s.setReg x b).advance 2

/-- `6xkk` LD Vx, kk (R80). -/
def execLdImm (x : Reg) (kk : Byte) (s : State) : Answer := .next (s.loadReg x kk)

/-- `7xkk` ADD Vx, kk: wraps, no flag (R81). -/
def execAddImm (x : Reg) (kk : Byte) (s : State) : Answer := .next (s.loadReg x (s.reg x + kk))

/-- `8xy0` LD Vx, Vy (R82). -/
def execLdReg (x y : Reg) (s : State) : Answer := .next (s.loadReg x (s.reg y))

/-- `8xy1` OR Vx, Vy; `VF` is not reset (R83). -/
def execOrReg (x y : Reg) (s : State) : Answer := .next (s.loadReg x (s.reg x ||| s.reg y))

/-- `8xy2` AND Vx, Vy; `VF` is not reset (R84). -/
def execAndReg (x y : Reg) (s : State) : Answer := .next (s.loadReg x (s.reg x &&& s.reg y))

/-- `8xy3` XOR Vx, Vy; `VF` is not reset (R85). -/
def execXorReg (x y : Reg) (s : State) : Answer := .next (s.loadReg x (s.reg x ^^^ s.reg y))

/-- `8xy4` ADD Vx, Vy: both operands are read for the sum before `VF` is written, and the result is
written last (R79, R86). -/
def execAddReg (x y : Reg) (s : State) : Answer :=
  .next ((s.setVF (carryOut (s.reg x) (s.reg y))).loadReg x (s.reg x + s.reg y))

/-- `8xy5` SUB Vx, Vy (R79, R87). -/
def execSub (x y : Reg) (s : State) : Answer :=
  .next (s.flagThenResult (noBorrow (s.reg x) (s.reg y)) x (fun r => r.reg x - r.reg y))

/-- `8xy6` SHR Vx; `y` is ignored (R79, R88). -/
def execShr (x _y : Reg) (s : State) : Answer :=
  .next (s.flagThenResult (shiftedOutRight (s.reg x)) x (fun r => r.reg x >>> 1))

/-- `8xy7` SUBN Vx, Vy (R79, R89). -/
def execSubn (x y : Reg) (s : State) : Answer :=
  .next (s.flagThenResult (noBorrow (s.reg y) (s.reg x)) x (fun r => r.reg y - r.reg x))

/-- `8xyE` SHL Vx; `y` is ignored (R79, R90). -/
def execShl (x _y : Reg) (s : State) : Answer :=
  .next (s.flagThenResult (shiftedOutLeft (s.reg x)) x (fun r => r.reg x <<< 1))

/-- `Annn` LD I, nnn (R91). -/
def execLdI (nnn : Addr) (s : State) : Answer := .next ((s.setI (zext16 nnn)).advance 2)

/-- `Cxkk` RND Vx, kk: the draw of this `Tick` under the mask (R27, R92). -/
def execRnd (x : Reg) (kk : Byte) (s : State) : Answer :=
  .next (s.consumeDraw.loadReg x (s.rndByte &&& kk))

end Sys2Proof.Machine
end

