-- ==== Sys2Proof/Machine/Display.lean ====
section
/-! DEFINITION. The display instructions (42_display.md, R94 to R96). -/

namespace Sys2Proof.Machine

open Sys2Proof

/-- `00E0` CLS (R95). -/
def execCls (s : State) : Answer := .next ((s.setFb FrameBuffer.blank).advance 2)

/-- What a drawing in progress has written: the cells, and whether some XOR turned a set cell off. -/
structure Drawing where
  /-- The frame buffer so far. -/
  fb : FrameBuffer
  /-- The collision so far. -/
  hit : Bool
deriving DecidableEq, Repr

/-- One sprite bit at sprite row `row`, column `col`: a zero bit does nothing; a one bit records a
collision if the cell is set, then toggles the cell (R96). -/
def drawBit (px py : Byte) (row col : Nat) (bit : Bool) (d : Drawing) : Drawing :=
  if bit then
    { fb := FrameBuffer.toggle d.fb (wrapColumn px col) (wrapRow py row)
      hit := d.hit || FrameBuffer.cell d.fb (wrapColumn px col) (wrapRow py row) }
  else d

/-- One sprite row: columns 0 to 7, the most significant bit first (R94, R96). -/
def drawRow (px py : Byte) (row : Nat) (b : Byte) (d : Drawing) : Drawing :=
  (List.range 8).foldl (fun acc col => drawBit px py row col (b.getLsbD (7 - col)) acc) d

/-- The sprite rows in order, the first being sprite row `row` (R96). -/
def drawRows (px py : Byte) : Nat → List Byte → Drawing → Drawing
  | _, [], d => d
  | row, b :: rest, d => drawRows px py (row + 1) rest (drawRow px py row b d)

/-- `Dxyn` DRAW Vx, Vy, n (R96): the bounds are tested before anything is written (R41, R112), the
coordinates are those of before `VF` is written (D8), and `VF` ends as the collision flag. -/
def execDraw (x y : Reg) (n : Nibble) (s : State) : Answer :=
  if s.spriteOutOfRange n then .next (s.raise (.dataOutOfRange s.pc s.i n))
  else
    let d := drawRows (s.reg x) (s.reg y) 0 (s.spriteRows n) { fb := s.fb, hit := false }
    .next (((s.setVF d.hit).setFb d.fb).advance 2)

end Sys2Proof.Machine
end

