-- ==== Sys2Proof/Machine/Unrecognised.lean ====
section
/-! DEFINITION. The five groups of unrecognised words (43_unimplemented.md, R99 to R105). -/

namespace Sys2Proof.Machine

open Sys2Proof

/-- An unrecognised word: a no-op that advances by 2 (R99), or under `STRICT_UNIMPL` the fault
`UnimplementedOpcode` with nothing written (R100, R108). -/
def unrecognised (word : Word) (s : State) : Answer :=
  if s.params.strictUnimpl then .next (s.raise (.unimplementedOpcode s.pc word))
  else .next (s.advance 2)

/-- Group U5: never skips (R101). -/
def execUnrecognisedU5 (x y : Reg) (n : Nibble) (s : State) : Answer :=
  unrecognised (packXYN 0x5#4 x y n) s

/-- Group U8: no register, no flag (R102). -/
def execUnrecognisedU8 (x y : Reg) (n : Nibble) (s : State) : Answer :=
  unrecognised (packXYN 0x8#4 x y n) s

/-- Group U9: never skips (R103). -/
def execUnrecognisedU9 (x y : Reg) (n : Nibble) (s : State) : Answer :=
  unrecognised (packXYN 0x9#4 x y n) s

/-- Group UE: never skips, never reads `KEY` (R104). -/
def execUnrecognisedUE (nnn : Addr) (s : State) : Answer := unrecognised (packNNN 0xE#4 nnn) s

/-- Group UF: no timer, no key, no store (R105). -/
def execUnrecognisedUF (nnn : Addr) (s : State) : Answer := unrecognised (packNNN 0xF#4 nnn) s

end Sys2Proof.Machine
end

