-- ==== Sys2Proof/Machine/Step.lean ====
section
/-! DEFINITION. One `Tick` (R51), and the placement of an instruction where the next `Tick` fetches. -/

namespace Sys2Proof.Machine

open Sys2Proof

/-- `Tick` (R51): nothing on a faulted machine (R115); FetchOutOfRange when `PC > 0xFFE` (R40, R111);
else fetch, decode and execute. No `PC` increment is added around the instruction (R65). -/
def step (s : State) : Host.Outcome State Fault Refusal :=
  if s.fault ≠ .clear then .next s
  else
    match s.fetch with
    | none => .next (s.raise (.fetchOutOfRange s.pc))
    | some w => exec (decodeWord w) s

/-- `s` with the word `w` of the opcode table at the address the next `Tick` fetches from, so that it
runs exactly that instruction. Where no fetch could happen, what stands in the way is removed: a set
latch is cleared, and a `PC` above 0xFFE is set to the entry point. -/
def State.withFetchWord (s : State) (nbits w : Nat) : State :=
  let pc := if s.pc.toNat ≤ 0xFFE then s.pc else Config.pcReset
  State.memWriteAll pc.toNat (tableBytes nbits w) { s with pc := pc, fault := .clear }

end Sys2Proof.Machine
end

