-- ==== Sys2Proof/Machine/Events.lean ====
section
/-! DEFINITION. The five atomic events through which the state changes (R8): `Reset` (R131),
`LoadProgram` (R44), `Tick` (R51), `UpdateTimers` (R120), `KeyWrite` (R124). Events are whole and
serialised (R9): an execution is a list of them. -/

namespace Sys2Proof.Machine

open Sys2Proof

/-- An event with its inputs. The random byte of a `Tick` is the free value of R27. -/
inductive Event where
  | reset
  | loadProgram (bytes : List Byte)
  | tick
  | updateTimers
  | keyWrite (k : Fin 16) (b : Bool)
deriving DecidableEq, Repr

/-- `Reset` (R131): every element of R28 at its reset value. The parameters are those of the machine
(R7), and the draws already consumed stay consumed, since a generator is outside the state (R27; log
entry 1). -/
def State.resetEvent (s : State) : State :=
  { State.reset with params := s.params, draws := s.draws }

/-- What `LoadProgram` answers to the host (R44). -/
inductive LoadResponse where
  | ok
  | loadError
deriving DecidableEq, Repr

/-- The answer of `LoadProgram(bytes)`: an error when `len > 3584` (R44, R107). -/
def loadResponse (bytes : List Byte) : LoadResponse :=
  if Config.maxProgramLen < bytes.length then .loadError else .ok

/-- `LoadProgram(bytes)` (R44): too long an image raises LoadError and writes nothing; another is copied
verbatim to 0x200. -/
def State.loadProgram (bytes : List Byte) (s : State) : State :=
  if Config.maxProgramLen < bytes.length then s.raise (.loadError bytes.length)
  else s.memWriteAll Config.programBase bytes

/-- One timer's share of `UpdateTimers`: down by 1 while above 0, floored at 0 (R120). -/
def timerDown (t : Byte) : Byte := if 0 < t.toNat then t - 1 else t

/-- `UpdateTimers` (R120); it does not look at the latch (R116). -/
def State.updateTimers (s : State) : State :=
  { s with dt := timerDown s.dt, st := timerDown s.st }

/-- `KeyWrite(k, b)` (R124); it does not look at the latch (R116). -/
def State.keyWrite (k : Fin 16) (b : Bool) (s : State) : State :=
  { s with key := s.key.set k.val b }

/-- The state an event leaves. -/
def State.apply (e : Event) (s : State) : Answer :=
  match e with
  | .reset => .next s.resetEvent
  | .loadProgram bytes => .next (s.loadProgram bytes)
  | .tick => step s
  | .updateTimers => .next s.updateTimers
  | .keyWrite k b => .next (s.keyWrite k b)

/-- The events of a list in order, stopping at the first stop (R9). -/
def State.applyAll : List Event → State → Answer
  | [], s => .next s
  | e :: rest, s =>
    match s.apply e with
    | .next t => State.applyAll rest t
    | .fault f => .fault f
    | .refused r => .refused r

end Sys2Proof.Machine
end

