-- ==== Sys2Proof/Machine/Observe.lean ====
section
/-! DEFINITION. What the collaborators read between events (R30, R31). No reading changes the state. -/

namespace Sys2Proof.Machine

open Sys2Proof

/-- `sound_on = (ST > 0)` (R30, R123). -/
def State.soundOn (s : State) : Bool := decide (0 < s.st.toNat)

/-- The frame buffer as a flat list of 2048 cells, cell (`cx`, `cy`) at `cy × 64 + cx` (R23, D18). -/
def State.flatFrame (s : State) : Vector Bool 2048 :=
  Vector.ofFn fun k => s.cell (Fin.ofNat 64 k.val) (Fin.ofNat 32 (k.val / 64))

/-- The trace record (R31). -/
structure TraceRecord where
  /-- `opcode`. -/
  opcode : Word
  /-- `memory_high_byte`, the byte at `PC`. -/
  memoryHighByte : Byte
  /-- `memory_low_byte`, the byte at `PC + 1`. -/
  memoryLowByte : Byte
  /-- `pc`, sampled at fetch (D17). -/
  pc : Word
  /-- `stack_pointer`, sampled at fetch (D17). -/
  stackPointer : Byte
deriving DecidableEq, Repr

/-- The record the `Tick` from this state emits when the trace is enabled: none on a faulted machine
(R115) and none when the fetch faults (R31, R111). -/
def State.traceRecord (s : State) : Option TraceRecord :=
  if s.fault ≠ .clear then none
  else
    match s.memRead1 s.pc.toNat, s.memRead1 (s.pc.toNat + 1) with
    | some hi, some lo => some ⟨wordOfBytes hi lo, hi, lo, s.pc, s.sp⟩
    | _, _ => none

end Sys2Proof.Machine
end

