-- ==== Sys2Proof/Safety.lean ====
section
/-! DEFINITION. The terms claims use: the invariants of the machine, launch premises (R139), the host's
contract (R133, R140), the end of a run (R135), and what an instruction may leave changed. -/

namespace Sys2Proof.Machine

open Sys2Proof

/-! ### Invariants -/

/-- What every state of this machine satisfies (R19, and the canonical form of memory). -/
def State.Inv (s : State) : Prop := Memory.wf s.mem = true ∧ s.sp.toNat ≤ Config.stackCapacity

/-- What every state reached from `Reset` satisfies besides: `I` in 0 to 0xFFF (R17), `PC` at most
0x10FE and stack entries at most 0x1000 (R75), both timers 0 (R121). -/
def State.ReachedShape (s : State) : Prop :=
  s.i.toNat ≤ 0xFFF ∧ s.pc.toNat ≤ 0x10FE ∧
  (∀ k (h : k < 16), s.stack[k].toNat ≤ 0x1000) ∧ s.dt = 0 ∧ s.st = 0

/-! ### Launch premises, end of a run, the host's contract -/

/-- `FreshReset` (R139): the state of R132, for whatever parameters and draws. -/
def State.FreshReset (s : State) : Prop := s = s.resetEvent

/-- What of a history, oldest event first, has happened since its last `Reset`; all of it, where there
is none (the history then starts at one). -/
def sinceReset (events : List Event) : List Event :=
  events.foldl (fun past e => if e = .reset then [] else past ++ [e]) []

/-- The image an event loads, if it is a `LoadProgram` that succeeds (R44). -/
def Event.loadedImage (e : Event) : Option (List Byte) :=
  match e with
  | .reset => none
  | .loadProgram bytes => if loadResponse bytes = .ok then some bytes else none
  | .tick => none
  | .updateTimers => none
  | .keyWrite _ _ => none

/-- `Loaded(image)` of the history from a `Reset` on (R139): one successful `LoadProgram`, of `image`,
has occurred since. What else has occurred, `Tick`s among it, is left open. -/
def Loaded (image : List Byte) (events : List Event) : Prop :=
  (sinceReset events).filterMap Event.loadedImage = [image]

/-- `NoFault` (R139). -/
def State.NoFault (s : State) : Prop := s.fault = .clear

/-- `NoTickYet` of the history from a `Reset` on (R139): no `Tick` has occurred since. -/
def NoTickYet (events : List Event) : Prop := Event.tick ∉ sinceReset events

/-- The four launch premises together (R139): `events` lead from a `FreshReset` to `s`, one successful
load of `image` is among them, `s` has no fault, and no `Tick` has occurred. Keys may have been written
and timers updated, before the load and after it (R133). -/
def State.Launched (image : List Byte) (s : State) : Prop :=
  ∃ (s0 : State) (events : List Event), s0.FreshReset ∧ s0.applyAll events = .next s ∧
    Loaded image events ∧ s.NoFault ∧ NoTickYet events

/-- `PC` stands on a jump to itself with no fault: the end of a run (R77, R135, D22). -/
def State.Ended (s : State) : Prop :=
  s.NoFault ∧ ∃ w, s.fetch = some w ∧
    ((∃ nnn, decodeWord w = .jp nnn ∧ s.pc = zext16 nnn) ∨
     (∃ nnn, decodeWord w = .jpV0 nnn ∧ s.pc = s.offsetTarget nnn))

/-- Where the host stands in its contract (R133, R140). -/
inductive HostPhase where
  /-- `Reset` has not been applied. -/
  | off
  /-- After `Reset`: a load is allowed. -/
  | fresh
  /-- After a load. -/
  | loaded
  /-- After the first `Tick`. -/
  | running
  /-- After a load error: execution must not start. -/
  | loadFailed
deriving DecidableEq, Repr

/-- The host's next phase, or none for a move the host is assumed never to make (R133, R140). -/
def HostPhase.next : HostPhase → Event → Option HostPhase
  | _, .reset => some .fresh
  | .fresh, .loadProgram bytes =>
    some (match loadResponse bytes with | .ok => .loaded | .loadError => .loadFailed)
  | .off, .loadProgram _ => none
  | .loaded, .loadProgram _ => none
  | .running, .loadProgram _ => none
  | .loadFailed, .loadProgram _ => none
  | .off, .tick => none
  | .loadFailed, .tick => none
  | .fresh, .tick => some .running
  | .loaded, .tick => some .running
  | .running, .tick => some .running
  | .off, .updateTimers => none
  | .fresh, .updateTimers => some .fresh
  | .loaded, .updateTimers => some .loaded
  | .running, .updateTimers => some .running
  | .loadFailed, .updateTimers => some .loadFailed
  | .off, .keyWrite _ _ => none
  | .fresh, .keyWrite _ _ => some .fresh
  | .loaded, .keyWrite _ _ => some .loaded
  | .running, .keyWrite _ _ => some .running
  | .loadFailed, .keyWrite _ _ => some .loadFailed

/-- A list of events the host's contract allows, from a phase on. -/
def hostContract : HostPhase → List Event → Bool
  | _, [] => true
  | p, e :: rest =>
    match HostPhase.next p e with
    | some q => hostContract q rest
    | none => false

/-! ### Frames and effects, as the statements name them -/

/-- Every element at its reset value (R28). -/
def State.ResetValues (s : State) : Prop :=
  (∀ r : Reg, s.reg r = 0) ∧ s.i = 0 ∧ s.pc = 0x200 ∧ s.sp = 0 ∧
  (∀ k (h : k < 16), s.stack[k] = 0) ∧ s.dt = 0 ∧ s.st = 0 ∧
  (∀ cx cy, s.cell cx cy = false) ∧ (∀ k (h : k < 16), s.key[k] = false) ∧
  (∀ a, a ≤ 0xFFF → s.memRead1 a = some 0) ∧ s.fault = .clear

/-- What no instruction touches is as before: the timers, the keys, every byte of memory, the
parameters. -/
def SameOutside (s t : State) : Prop :=
  t.dt = s.dt ∧ t.st = s.st ∧ t.key = s.key ∧ (∀ a, t.memRead1 a = s.memRead1 a) ∧
  t.params = s.params

/-- `I`, `SP`, every stack entry and the latch are as before. -/
def SameSpecials (s t : State) : Prop :=
  t.i = s.i ∧ t.sp = s.sp ∧ t.stack = s.stack ∧ t.fault = s.fault

/-- Everything but the general registers and `PC` is as before. -/
def SameBesidesRegsPc (s t : State) : Prop :=
  SameOutside s t ∧ SameSpecials s t ∧ t.fb = s.fb ∧ t.draws = s.draws

/-- Every general register outside `written` is as before. -/
def SameRegsBut (written : List Reg) (s t : State) : Prop :=
  ∀ r : Reg, r ∉ written → t.reg r = s.reg r

/-- `advance(k)` (R65): `PC` is `(A + k) mod 65536`. -/
def Advanced (k : Nat) (s t : State) : Prop := t.pc.toNat = (s.pc.toNat + k) % 65536

/-- Nothing but the latch differs, and it holds `c` if it was clear, else what it held (R113). -/
def FaultTaken (c : FaultCode) (s t : State) : Prop :=
  t = { s with fault := if s.fault = .clear then c else s.fault }

/-- `S(cx, cy)` of R97: a set bit of the `n`-row sprite at `I`, placed at (`Vx`, `Vy`), falls on the
cell. -/
def State.spriteTouches (s : State) (x y : Reg) (n : Nibble) (cx : Fin 64) (cy : Fin 32) : Bool :=
  let row := ((cy.val : Int) - (s.reg y).toNat) % 32
  let col := ((cx.val : Int) - (s.reg x).toNat) % 64
  decide (row < n.toNat) && decide (col < 8) &&
    (Memory.read s.mem (s.i.toNat + row.toNat)).getLsbD (7 - col.toNat)

/-- The last of `n` sprite bytes lies in memory, or there is none (R41). -/
def State.SpriteInRange (s : State) (n : Nibble) : Prop :=
  n.toNat = 0 ∨ s.i.toNat + n.toNat - 1 ≤ 0xFFF

/-- The fault a `Tick` of a machine without one takes, if any: the table of R106 in the order of R114. -/
def State.tickFault (s : State) : FaultCode :=
  match s.fetch with
  | none => .fetchOutOfRange
  | some w =>
    match decodeWord w with
    | .call _ => if 16 ≤ s.sp.toNat then .stackOverflow else .clear
    | .ret => if s.sp.toNat = 0 then .stackUnderflow else .clear
    | .draw _ _ n =>
      if 1 ≤ n.toNat ∧ 0xFFF < s.i.toNat + n.toNat - 1 then .dataOutOfRange else .clear
    | .unrecognisedU5 _ _ _ => if s.params.strictUnimpl then .unimplementedOpcode else .clear
    | .unrecognisedU8 _ _ _ => if s.params.strictUnimpl then .unimplementedOpcode else .clear
    | .unrecognisedU9 _ _ _ => if s.params.strictUnimpl then .unimplementedOpcode else .clear
    | .unrecognisedUE _ => if s.params.strictUnimpl then .unimplementedOpcode else .clear
    | .unrecognisedUF _ => if s.params.strictUnimpl then .unimplementedOpcode else .clear
    | _ => .clear

/-- Where `PC` goes when the instruction completes, from the address `A` it stands at (R65): a target,
`A + 4` for a taken skip, `A + 2` otherwise. -/
def State.pcAfter (s : State) (i : Instr) : Nat :=
  match i with
  | .jp nnn => nnn.toNat
  | .call nnn => nnn.toNat
  | .jpV0 nnn => nnn.toNat + (s.reg 0).toNat
  | .ret => ((s.stackEntry (s.sp.toNat - 1)).getD 0).toNat
  | .seImm x kk => (s.pc.toNat + if s.reg x = kk then 4 else 2) % 65536
  | .sneImm x kk => (s.pc.toNat + if s.reg x = kk then 2 else 4) % 65536
  | .seReg x y => (s.pc.toNat + if s.reg x = s.reg y then 4 else 2) % 65536
  | .sneReg x y => (s.pc.toNat + if s.reg x = s.reg y then 2 else 4) % 65536
  | _ => (s.pc.toNat + 2) % 65536

/-- The same machine built with another `STRICT_UNIMPL` (R7, R100). -/
def State.setStrict (b : Bool) (s : State) : State :=
  { s with params := { s.params with strictUnimpl := b } }

/-- The register an instruction writes as an ordinary destination, if any. -/
def destinationOf (i : Instr) : Option Reg :=
  match i with
  | .ldImm x _ => some x
  | .addImm x _ => some x
  | .ldReg x _ => some x
  | .orReg x _ => some x
  | .andReg x _ => some x
  | .xorReg x _ => some x
  | .addReg x _ => some x
  | .sub x _ => some x
  | .shr x _ => some x
  | .subn x _ => some x
  | .shl x _ => some x
  | .rnd x _ => some x
  | _ => none

/-- The six instructions that write `VF` as a flag (R15). -/
def writesFlag (i : Instr) : Bool :=
  match i with
  | .addReg _ _ => true
  | .sub _ _ => true
  | .shr _ _ => true
  | .subn _ _ => true
  | .shl _ _ => true
  | .draw _ _ _ => true
  | _ => false

/-- What an answer becomes when its next state is changed further. -/
def afterwards (f : State → State) (a : Answer) : Answer :=
  match a with
  | .next t => .next (f t)
  | .fault r => .fault r
  | .refused r => .refused r

/-- A state with the timers and keys blotted out: what the result of a program is made of (R129). -/
def State.programView (s : State) : State :=
  { s with dt := 0, st := 0, key := Vector.replicate 16 false }

/-- The events a running program shares the machine with: no `Reset`, no `LoadProgram` (R133). -/
def Event.isRunning (e : Event) : Bool :=
  match e with
  | .reset => false
  | .loadProgram _ => false
  | .tick => true
  | .updateTimers => true
  | .keyWrite _ _ => true

/-- Whether an event is a `Tick`. -/
def Event.isTick (e : Event) : Bool :=
  match e with
  | .reset => false
  | .loadProgram _ => false
  | .tick => true
  | .updateTimers => false
  | .keyWrite _ _ => false

end Sys2Proof.Machine
end

