-- ==== Sys2Proof/Certificates/Slice0/Obligations.lean ====
section
/-! DEFINITION. The statements for the provers. Each docstring names the rule of spec/ it formalises, or
says that it is derived and from what. -/

open Sys2Proof Sys2Proof.Machine

/-! ### Encoding and decoding -/

/-- R53, whole: the six fields are cut from fixed bit positions, and where they lie in the two bytes. -/
def Obligations.FieldsOfOpcode : Prop :=
  (∀ w : Word,
    (fieldDigit w).toNat = w.toNat >>> 12 ∧ (fieldX w).val = (w.toNat >>> 8) &&& 0xF ∧
    (fieldY w).val = (w.toNat >>> 4) &&& 0xF ∧ (fieldN w).toNat = w.toNat &&& 0xF ∧
    (fieldNNN w).toNat = w.toNat &&& 0xFFF ∧ (fieldKK w).toNat = w.toNat &&& 0xFF) ∧
  (∀ hi lo : Byte,
    (fieldDigit (wordOfBytes hi lo)).toNat = hi.toNat / 16 ∧
    (fieldX (wordOfBytes hi lo)).val = hi.toNat % 16 ∧
    (fieldY (wordOfBytes hi lo)).val = lo.toNat / 16 ∧
    (fieldN (wordOfBytes hi lo)).toNat = lo.toNat % 16 ∧
    fieldKK (wordOfBytes hi lo) = lo ∧
    (fieldNNN (wordOfBytes hi lo)).toNat = hi.toNat % 16 * 256 + lo.toNat)

/-- R64, whole: the three packing formulas and the rule's own examples. -/
def Obligations.EncodingFormulas : Prop :=
  (∀ (d : Nibble) (nnn : Addr), (packNNN d nnn).toNat = d.toNat * 4096 + nnn.toNat) ∧
  (∀ (d : Nibble) (x : Reg) (kk : Byte),
    (packXKK d x kk).toNat = d.toNat * 4096 + x.val * 256 + kk.toNat) ∧
  (∀ (d : Nibble) (x y : Reg) (n : Nibble),
    (packXYN d x y n).toNat = d.toNat * 4096 + x.val * 256 + y.val * 16 + n.toNat) ∧
  encode (.ldImm 0 5) = 0x6005 ∧ encodeBytes (.ldImm 0 5) = [0x60, 0x05] ∧
  encode (.ldI 0x200) = 0xA200 ∧ encodeBytes (.ldI 0x200) = [0xA2, 0x00] ∧
  encode (.addReg 3 10) = 0x83A4 ∧ encode (.draw 0 1 2) = 0xD012 ∧
  encode (.jpV0 0x204) = 0xB204 ∧ encode (.shr 3 0) = 0x8306

/-- A sanity statement: a few words written out from the encodings of each family (R57, R59, R60). -/
def Obligations.SampleWordsDecode : Prop :=
  decodeWord 0x00E0 = .cls ∧ decodeWord 0x00EE = .ret ∧ decodeWord 0x00E1 = .nop 0x0E1 ∧
  decodeWord 0x220E = .call 0x20E ∧ decodeWord 0x8326 = .shr 3 2 ∧
  decodeWord 0x7F01 = .addImm 15 1 ∧ decodeWord 0xA212 = .ldI 0x212 ∧
  decodeWord 0xDFF1 = .draw 15 15 1 ∧ decodeWord 0x5121 = .unrecognisedU5 1 2 1 ∧
  decodeWord 0x812F = .unrecognisedU8 1 2 15 ∧ decodeWord 0x9121 = .unrecognisedU9 1 2 1 ∧
  decodeWord 0xE19E = .unrecognisedUE 0x19E ∧ decodeWord 0xF033 = .unrecognisedUF 0x033

/-- Derived from R61 and R52: for every well-formed instruction, with every operand at every value,
decoding its word or its two bytes gives it back. -/
def Obligations.DecodeOfEncode : Prop :=
  ∀ (i : Instr) (rest : List Byte), i.wellFormed = true →
    decodeWord (encode i) = i ∧ decode (encodeBytes i ++ rest) = .ok (i, rest)

/-- Derived from R58 and R61: every 16-bit word decodes to a well-formed instruction whose word it is. -/
def Obligations.EncodeOfDecode : Prop :=
  ∀ w : Word, (decodeWord w).wellFormed = true ∧ encode (decodeWord w) = w

/-- R56: the decoder takes the first row of the ordered table (masks and matches of R57 and R59) that
the word matches; outside digit 0 a word matches at most one of the 24 recognised rows. -/
def Obligations.DecodeTakesFirstRow : Prop :=
  (∀ w : Word, firstMatchingRow w = some (decodeWord w).row) ∧
  (∀ (w : Word) (i j : Nat), i < j → j < 24 →
    w &&& (opcodeRows.getD i (0, 0)).1 = (opcodeRows.getD i (0, 0)).2 →
    w &&& (opcodeRows.getD j (0, 0)).1 = (opcodeRows.getD j (0, 0)).2 → fieldDigit w = 0)

/-! ### Memory and fetch -/

/-- R37, whole, and what R36 says of the value: reads of one byte answer for 0 to 0xFFF only, with no
wrap-around; reads of two, the fetch among them, are big-endian. -/
def Obligations.MemReadPrimitives : Prop :=
  ∀ (s : State) (a : Nat),
    (a ≤ 0xFFF → s.memRead1 a = some (Memory.read s.mem a)) ∧
    (0xFFF < a → s.memRead1 a = none) ∧
    (a + 1 ≤ 0xFFF → ∃ w hi lo, s.memRead2 a = some w ∧ s.memRead1 a = some hi ∧
      s.memRead1 (a + 1) = some lo ∧ w.toNat = hi.toNat * 256 + lo.toNat) ∧
    (0xFFF < a + 1 → s.memRead2 a = none) ∧ s.fetch = s.memRead2 s.pc.toNat

/-- Derived from R43: a write of a byte changes that byte and nothing else; and short of `Reset` a byte
changes by `LoadProgram` only, at 0x200 to 0xFFF. That memory is a list in canonical form, which the write
keeps, is the model's choice (log entry 9). -/
def Obligations.MemWriteOneByte : Prop :=
  (∀ (s : State) (a : Nat) (b : Byte), Memory.wf s.mem = true → a ≤ 0xFFF →
    (∀ k, (s.memWrite a b).memRead1 k = if k = a then some b else s.memRead1 k) ∧
    Memory.wf (s.memWrite a b).mem = true ∧ { s.memWrite a b with mem := s.mem } = s) ∧
  (∀ (s t : State) (e : Event) (a : Nat), Memory.wf s.mem = true → e ≠ .reset →
    s.apply e = .next t → t.memRead1 a ≠ s.memRead1 a →
    (∃ bytes, e = .loadProgram bytes) ∧ 0x200 ≤ a ∧ a ≤ 0xFFF)

/-- Of the model's own form of `MEM`: memory is data in one canonical form, so two memories that read
alike are equal. The form is the model's choice (log entry 9); that `MEM` is nothing but its bytes is
R26. -/
def Obligations.MemoryEqualIfReadAlike : Prop :=
  ∀ m m' : Memory, Memory.wf m = true → Memory.wf m' = true →
    (∀ a, Memory.read m a = Memory.read m' a) → m = m'

/-- R44: too long an image is refused and changes nothing but the latch; another is copied verbatim to
0x200 and nothing else changes. The premise is the model's form of `MEM` (log entry 9), which every event
keeps (EventsKeepInv). -/
def Obligations.LoadProgramEffect : Prop :=
  ∀ (s : State) (bytes : List Byte), Memory.wf s.mem = true →
    ∃ t, s.apply (.loadProgram bytes) = .next t ∧
      (3584 < bytes.length → loadResponse bytes = .loadError ∧ FaultTaken .loadError s t) ∧
      (bytes.length ≤ 3584 → loadResponse bytes = .ok ∧
        (∀ k (h : k < bytes.length), t.memRead1 (0x200 + k) = some bytes[k]) ∧
        (∀ a, a < 0x200 ∨ 0x200 + bytes.length ≤ a → t.memRead1 a = s.memRead1 a) ∧
        { t with mem := s.mem } = s)

/-! ### One Tick -/

/-- The `Tick` procedure of R51: the three things it can do; no increment is added around the
instruction. Derived, since R51's last paragraph is about the instructions (see PcChangesInThreeWays). -/
def Obligations.TickProcedure : Prop :=
  ∀ s : State,
    (s.fault ≠ .clear → step s = .next s ∧ s.traceRecord = none) ∧
    (s.fault = .clear → 0xFFE < s.pc.toNat →
      step s = .next { s with fault := .fetchOutOfRange } ∧ s.traceRecord = none) ∧
    (s.fault = .clear → s.pc.toNat ≤ 0xFFE →
      ∃ w hi lo, s.memRead2 s.pc.toNat = some w ∧ s.memRead1 s.pc.toNat = some hi ∧
        s.memRead1 (s.pc.toNat + 1) = some lo ∧ w.toNat = hi.toNat * 256 + lo.toNat ∧
        s.traceRecord = some ⟨w, hi, lo, s.pc, s.sp⟩ ∧ step s = exec (decodeWord w) s)

/-- Derived from R51, R37 and R52: where the bytes at `PC` are those of a well-formed instruction, a
step is exactly its execution. -/
def Obligations.StepRunsDecodedInstruction : Prop :=
  ∀ (s : State) (i : Instr) (hi lo : Byte), s.fault = .clear → i.wellFormed = true →
    s.memRead1 s.pc.toNat = some hi → s.memRead1 (s.pc.toNat + 1) = some lo →
    decode [hi, lo] = .ok (i, []) → step s = exec i s

/-- R40 and R111: the fetch succeeds exactly up to 0xFFE; above, the `Tick` takes FetchOutOfRange,
emits no trace record and writes nothing else. -/
def Obligations.FetchBounds : Prop :=
  ∀ s : State,
    (s.pc.toNat ≤ 0xFFE → s.fetch ≠ none ∧ s.fetch = s.memRead2 s.pc.toNat) ∧
    (0xFFE < s.pc.toNat → s.fetch = none ∧ (s.fault = .clear → s.traceRecord = none ∧
      ∃ t, step s = .next t ∧ FaultTaken .fetchOutOfRange s t ∧ t.fault = .fetchOutOfRange))

/-- R115: a faulted machine's `Tick` is the identity, and only `Reset` clears the latch; its first code
stays. -/
def Obligations.LatchIsSticky : Prop :=
  (∀ s : State, s.fault ≠ .clear → step s = .next s ∧ s.traceRecord = none) ∧
  (∀ (s t : State) (e : Event), s.fault ≠ .clear → e ≠ .reset → s.apply e = .next t →
    t.fault = s.fault) ∧
  (∀ s : State, s.resetEvent.fault = .clear)

/-- R113: a fault is precise. Whenever an event other than `Reset` changes the latch, it was clear
before, it has taken the code of that fault, and nothing else has changed (`PC` among it). -/
def Obligations.FaultIsPrecise : Prop :=
  ∀ (s t : State) (e : Event), e ≠ .reset → s.apply e = .next t → t.fault ≠ s.fault →
    s.fault = .clear ∧ t = { s with fault := t.fault } ∧
    ((e = .tick ∧ t.fault = s.tickFault) ∨
     (∃ bytes, e = .loadProgram bytes ∧ 3584 < bytes.length ∧ t.fault = .loadError))

/-- R114, with the conditions of R106's table: the fetch fault comes first and each instruction has at
most one fault of its own. -/
def Obligations.TickFaultIsTheTables : Prop :=
  ∀ s t : State, s.fault = .clear → step s = .next t → t.fault = s.tickFault

/-- R10: on every state whose `SP` is legal (R19), a `Tick` yields a next state, and either the latch is
as it was or it alone has changed; from then on a `Tick` leaves the state as it is, and the latch stays
set until `Reset`. -/
def Obligations.TickYieldsStateOrFault : Prop :=
  ∀ s : State, s.sp.toNat ≤ 16 → ∃ t, step s = .next t ∧
    (t.fault = s.fault ∨ (s.fault = .clear ∧ t = { s with fault := t.fault })) ∧
    (t.fault ≠ .clear → step t = .next t ∧
      ∀ (e : Event) (u : State), e ≠ .reset → t.apply e = .next u → u.fault = t.fault)

/-! ### Control flow -/

/-- R66: `0nnn` only advances, whatever `STRICT_UNIMPL` says. -/
def Obligations.NopOnlyAdvances : Prop :=
  ∀ (nnn : Addr) (s : State), ∃ t, exec (.nop nnn) s = .next t ∧ Advanced 2 s t ∧
    SameRegsBut [] s t ∧ SameBesidesRegsPc s t

/-- R67 and R110: `RETURN` with `SP = 0` faults; otherwise it pops, with no further advance, and the
popped entry stays as it was. -/
def Obligations.ReturnPopsOrUnderflows : Prop :=
  ∀ s : State,
    (s.sp.toNat = 0 → ∃ t, exec .ret s = .next t ∧ FaultTaken .stackUnderflow s t) ∧
    (∀ k (h : k < 16), s.sp.toNat = k + 1 → ∃ t, exec .ret s = .next t ∧
      t.sp.toNat = k ∧ t.pc = s.stack[k] ∧ t.stack = s.stack ∧ SameRegsBut [] s t ∧
      SameOutside s t ∧ t.i = s.i ∧ t.fb = s.fb ∧ t.fault = s.fault ∧ t.draws = s.draws)

/-- The model's own stop (log entry 5): `RETURN` with `SP` above 16, which R19 excludes, has no entry to
pop. Derived from R19 and R20. -/
def Obligations.ReturnWithoutEntryStops : Prop :=
  ∀ s : State, 16 < s.sp.toNat → exec .ret s = .fault (.stackEntryAbsent (s.sp.toNat - 1))

/-- R68: `JP nnn` lands exactly on `nnn`. -/
def Obligations.JumpLandsOnTarget : Prop :=
  ∀ (nnn : Addr) (s : State), ∃ t, exec (.jp nnn) s = .next t ∧ t.pc.toNat = nnn.toNat ∧
    SameRegsBut [] s t ∧ SameBesidesRegsPc s t

/-- R69 and R109: `CALL` at capacity faults; otherwise it pushes the address after itself and jumps. -/
def Obligations.CallPushesOrOverflows : Prop :=
  ∀ (nnn : Addr) (s : State),
    (16 ≤ s.sp.toNat → ∃ t, exec (.call nnn) s = .next t ∧ FaultTaken .stackOverflow s t) ∧
    (∀ h : s.sp.toNat < 16, ∃ t, exec (.call nnn) s = .next t ∧
      t.stack[s.sp.toNat].toNat = (s.pc.toNat + 2) % 65536 ∧
      (∀ k (hk : k < 16), k ≠ s.sp.toNat → t.stack[k] = s.stack[k]) ∧
      t.sp.toNat = s.sp.toNat + 1 ∧ t.pc.toNat = nnn.toNat ∧ SameRegsBut [] s t ∧
      SameOutside s t ∧ t.i = s.i ∧ t.fb = s.fb ∧ t.fault = s.fault ∧ t.draws = s.draws)

/-- Derived from R67 and R69: `CALL` and then at once `RETURN` continues at the address after the
`CALL`, with the stack pointer as before. -/
def Obligations.CallThenReturnResumes : Prop :=
  ∀ (nnn : Addr) (s : State), s.sp.toNat < 16 →
    ∃ t u, exec (.call nnn) s = .next t ∧ exec .ret t = .next u ∧
      Advanced 2 s u ∧ u.sp = s.sp ∧ SameRegsBut [] s u ∧ u.fault = s.fault

/-- R70 to R73: the four skips advance by 4 when their condition holds and by 2 otherwise, and change
nothing else. -/
def Obligations.SkipsAdvance : Prop :=
  (∀ (x : Reg) (kk : Byte) (s : State), ∃ t, exec (.seImm x kk) s = .next t ∧
    (s.reg x = kk → Advanced 4 s t) ∧ (s.reg x ≠ kk → Advanced 2 s t) ∧
    SameRegsBut [] s t ∧ SameBesidesRegsPc s t) ∧
  (∀ (x : Reg) (kk : Byte) (s : State), ∃ t, exec (.sneImm x kk) s = .next t ∧
    (s.reg x ≠ kk → Advanced 4 s t) ∧ (s.reg x = kk → Advanced 2 s t) ∧
    SameRegsBut [] s t ∧ SameBesidesRegsPc s t) ∧
  (∀ (x y : Reg) (s : State), ∃ t, exec (.seReg x y) s = .next t ∧
    (s.reg x = s.reg y → Advanced 4 s t) ∧ (s.reg x ≠ s.reg y → Advanced 2 s t) ∧
    SameRegsBut [] s t ∧ SameBesidesRegsPc s t) ∧
  (∀ (x y : Reg) (s : State), ∃ t, exec (.sneReg x y) s = .next t ∧
    (s.reg x ≠ s.reg y → Advanced 4 s t) ∧ (s.reg x = s.reg y → Advanced 2 s t) ∧
    SameRegsBut [] s t ∧ SameBesidesRegsPc s t)

/-- R74: `JP V0, nnn` lands exactly on `nnn + V0`, not reduced and not wrapped. -/
def Obligations.OffsetJumpLandsOnSum : Prop :=
  ∀ (nnn : Addr) (s : State), ∃ t, exec (.jpV0 nnn) s = .next t ∧
    t.pc.toNat = nnn.toNat + (s.reg 0).toNat ∧ SameRegsBut [] s t ∧ SameBesidesRegsPc s t

/-- R65: every instruction that completes changes `PC` in exactly one of the three ways; one that faults
does not change it. -/
def Obligations.PcChangesInThreeWays : Prop :=
  ∀ (i : Instr) (s t : State), s.fault = .clear → exec i s = .next t →
    (t.fault = .clear → t.pc.toNat = s.pcAfter i) ∧ (t.fault ≠ .clear → t.pc = s.pc)

/-- Derived from R77 and R135: once a run has ended on a self-jump, any number of `Tick`s leaves the
state as it is. -/
def Obligations.EndedRunStaysPut : Prop :=
  ∀ (s : State) (k : Nat), s.Ended → Sys2Proof.core.run k s = .next s

/-! ### Data and ALU -/

/-- R80 and R82: the loads write `Vx` and nothing else. -/
def Obligations.LoadsWriteDestination : Prop :=
  (∀ (x : Reg) (kk : Byte) (s : State), ∃ t, exec (.ldImm x kk) s = .next t ∧
    t.reg x = kk ∧ SameRegsBut [x] s t ∧ Advanced 2 s t ∧ SameBesidesRegsPc s t) ∧
  (∀ (x y : Reg) (s : State), ∃ t, exec (.ldReg x y) s = .next t ∧
    t.reg x = s.reg y ∧ SameRegsBut [x] s t ∧ Advanced 2 s t ∧ SameBesidesRegsPc s t)

/-- R81: `ADD Vx, kk` wraps modulo 256 and records no carry (`VF` is kept unless it is `Vx`). -/
def Obligations.AddImmediateWraps : Prop :=
  ∀ (x : Reg) (kk : Byte) (s : State), ∃ t, exec (.addImm x kk) s = .next t ∧
    (t.reg x).toNat = ((s.reg x).toNat + kk.toNat) % 256 ∧ SameRegsBut [x] s t ∧
    Advanced 2 s t ∧ SameBesidesRegsPc s t

/-- R83 to R85: OR, AND and XOR bit by bit; `VF` is not reset. -/
def Obligations.LogicalOperations : Prop :=
  (∀ (x y : Reg) (s : State), ∃ t, exec (.orReg x y) s = .next t ∧
    (∀ k, (t.reg x).getLsbD k = ((s.reg x).getLsbD k || (s.reg y).getLsbD k)) ∧
    SameRegsBut [x] s t ∧ Advanced 2 s t ∧ SameBesidesRegsPc s t) ∧
  (∀ (x y : Reg) (s : State), ∃ t, exec (.andReg x y) s = .next t ∧
    (∀ k, (t.reg x).getLsbD k = ((s.reg x).getLsbD k && (s.reg y).getLsbD k)) ∧
    SameRegsBut [x] s t ∧ Advanced 2 s t ∧ SameBesidesRegsPc s t) ∧
  (∀ (x y : Reg) (s : State), ∃ t, exec (.xorReg x y) s = .next t ∧
    (∀ k, (t.reg x).getLsbD k = ((s.reg x).getLsbD k ^^ (s.reg y).getLsbD k)) ∧
    SameRegsBut [x] s t ∧ Advanced 2 s t ∧ SameBesidesRegsPc s t)

/-- R86: the sum of both operands, read before `VF` is written; `VF` is the carry, unless `Vx` is `VF`,
where the result, written last, stays. -/
def Obligations.AddRegistersCarries : Prop :=
  ∀ (x y : Reg) (s : State), ∃ t, exec (.addReg x y) s = .next t ∧
    (t.reg x).toNat = ((s.reg x).toNat + (s.reg y).toNat) % 256 ∧
    (x ≠ 15 → (t.reg 15).toNat = if 255 < (s.reg x).toNat + (s.reg y).toNat then 1 else 0) ∧
    SameRegsBut [x, 15] s t ∧ Advanced 2 s t ∧ SameBesidesRegsPc s t

/-- R87, with the statements in the order written (R79): `f` is the not-borrow flag. -/
def Obligations.SubtractSequential : Prop :=
  ∀ (x y : Reg) (s : State) (f : Nat), s.params.vfAliasOrder = .sequential →
    f = (if (s.reg y).toNat ≤ (s.reg x).toNat then 1 else 0) →
    ∃ t, exec (.sub x y) s = .next t ∧
      (x ≠ 15 → (t.reg 15).toNat = f) ∧
      (x ≠ 15 → y ≠ 15 → (t.reg x).toNat = ((s.reg x).toNat + 256 - (s.reg y).toNat) % 256) ∧
      (x = 15 → y ≠ 15 → (t.reg x).toNat = (f + 256 - (s.reg y).toNat) % 256) ∧
      (x ≠ 15 → y = 15 → (t.reg x).toNat = ((s.reg x).toNat + 256 - f) % 256) ∧
      (x = 15 → y = 15 → (t.reg x).toNat = 0) ∧
      SameRegsBut [x, 15] s t ∧ Advanced 2 s t ∧ SameBesidesRegsPc s t

/-- R89, with the statements in the order written (R79): `f` is the not-borrow flag of `Vy - Vx`. -/
def Obligations.SubtractReversedSequential : Prop :=
  ∀ (x y : Reg) (s : State) (f : Nat), s.params.vfAliasOrder = .sequential →
    f = (if (s.reg x).toNat ≤ (s.reg y).toNat then 1 else 0) →
    ∃ t, exec (.subn x y) s = .next t ∧
      (x ≠ 15 → (t.reg 15).toNat = f) ∧
      (x ≠ 15 → y ≠ 15 → (t.reg x).toNat = ((s.reg y).toNat + 256 - (s.reg x).toNat) % 256) ∧
      (x = 15 → y ≠ 15 → (t.reg x).toNat = ((s.reg y).toNat + 256 - f) % 256) ∧
      (x ≠ 15 → y = 15 → (t.reg x).toNat = (f + 256 - (s.reg x).toNat) % 256) ∧
      (x = 15 → y = 15 → (t.reg x).toNat = 0) ∧
      SameRegsBut [x, 15] s t ∧ Advanced 2 s t ∧ SameBesidesRegsPc s t

/-- R88 and R90, with the statements in the order written (R79): shifts of `Vx` in place by one bit, the
bit shifted out in `VF`; `y` is ignored. -/
def Obligations.ShiftsSequential : Prop :=
  (∀ (x y : Reg) (s : State), s.params.vfAliasOrder = .sequential →
    ∃ t, exec (.shr x y) s = .next t ∧
      (x ≠ 15 → (t.reg x).toNat = (s.reg x).toNat / 2 ∧
        (t.reg 15).toNat = (s.reg x).toNat % 2) ∧
      (x = 15 → (t.reg x).toNat = 0) ∧
      SameRegsBut [x, 15] s t ∧ Advanced 2 s t ∧ SameBesidesRegsPc s t) ∧
  (∀ (x y : Reg) (s : State), s.params.vfAliasOrder = .sequential →
    ∃ t, exec (.shl x y) s = .next t ∧
      (x ≠ 15 → (t.reg x).toNat = (s.reg x).toNat * 2 % 256 ∧
        (t.reg 15).toNat = (s.reg x).toNat / 128) ∧
      (x = 15 → (t.reg x).toNat = (s.reg x).toNat / 128 * 2) ∧
      SameRegsBut [x, 15] s t ∧ Advanced 2 s t ∧ SameBesidesRegsPc s t)

/-- Derived from decision D7 (92_eei_decisions.md): under `latched` the result is that of the operands of
before the instruction, and it is written last. The setting is not this hardware's (log entry 3). -/
def Obligations.LatchedResults : Prop :=
  ∀ (x y : Reg) (s : State), s.params.vfAliasOrder = .latched →
    (∃ t, exec (.sub x y) s = .next t ∧
      (t.reg x).toNat = ((s.reg x).toNat + 256 - (s.reg y).toNat) % 256 ∧
      SameRegsBut [x, 15] s t ∧ Advanced 2 s t ∧ SameBesidesRegsPc s t) ∧
    (∃ t, exec (.subn x y) s = .next t ∧
      (t.reg x).toNat = ((s.reg y).toNat + 256 - (s.reg x).toNat) % 256 ∧
      SameRegsBut [x, 15] s t ∧ Advanced 2 s t ∧ SameBesidesRegsPc s t) ∧
    (∃ t, exec (.shr x y) s = .next t ∧ (t.reg x).toNat = (s.reg x).toNat / 2 ∧
      SameRegsBut [x, 15] s t ∧ Advanced 2 s t ∧ SameBesidesRegsPc s t) ∧
    (∃ t, exec (.shl x y) s = .next t ∧ (t.reg x).toNat = (s.reg x).toNat * 2 % 256 ∧
      SameRegsBut [x, 15] s t ∧ Advanced 2 s t ∧ SameBesidesRegsPc s t)

/-- R91: `LD I, nnn` writes `I`, zero-extended, and nothing else. -/
def Obligations.LoadIndexRegister : Prop :=
  ∀ (nnn : Addr) (s : State), ∃ t, exec (.ldI nnn) s = .next t ∧ t.i.toNat = nnn.toNat ∧
    SameRegsBut [] s t ∧ Advanced 2 s t ∧ SameOutside s t ∧ t.sp = s.sp ∧ t.stack = s.stack ∧
    t.fb = s.fb ∧ t.fault = s.fault ∧ t.draws = s.draws

/-- Derived from R92 and R27: `RND` writes the draw of this `Tick` under the mask, whatever the draw is,
and the next draw is a fresh one. The draw is a free value (log entry 1). -/
def Obligations.RandomUnderMask : Prop :=
  ∀ (x : Reg) (kk : Byte) (s : State), ∃ t, exec (.rnd x kk) s = .next t ∧
    t.reg x = Config.randomByte s.draws &&& kk ∧ t.reg x &&& ~~~kk = 0 ∧
    t.draws = s.draws + 1 ∧ SameRegsBut [x] s t ∧ Advanced 2 s t ∧ SameOutside s t ∧
    SameSpecials s t ∧ t.fb = s.fb

/-- Derived from R15: `VF` changes only by one of the six flag-writing instructions or as the ordinary
destination of an instruction whose `x` is 15. -/
def Obligations.FlagWrittenOnlyByItsWriters : Prop :=
  ∀ (i : Instr) (s t : State), exec i s = .next t → t.reg 15 ≠ s.reg 15 →
    writesFlag i = true ∨ destinationOf i = some 15

/-! ### Display -/

/-- R95: `CLS` clears every cell and nothing else. -/
def Obligations.ClearScreen : Prop :=
  ∀ s : State, ∃ t, exec .cls s = .next t ∧ (∀ cx cy, t.cell cx cy = false) ∧
    SameRegsBut [] s t ∧ Advanced 2 s t ∧ SameOutside s t ∧ SameSpecials s t ∧ t.draws = s.draws

/-- Derived from R96 and R97: the loop of `DRAW` is one XOR with the sprite's cells, in closed form, and
`VF` is 1 exactly if a cell was set and is touched. -/
def Obligations.DrawIsXorOfSprite : Prop :=
  ∀ (x y : Reg) (n : Nibble) (s : State), s.SpriteInRange n →
    ∃ t, exec (.draw x y n) s = .next t ∧
      (∀ cx cy, t.cell cx cy = (s.cell cx cy ^^ s.spriteTouches x y n cx cy)) ∧
      (t.reg 15 = 0 ∨ t.reg 15 = 1) ∧
      (t.reg 15 = 1 ↔ ∃ cx cy, s.cell cx cy = true ∧ s.spriteTouches x y n cx cy = true) ∧
      SameRegsBut [15] s t ∧ Advanced 2 s t ∧ SameOutside s t ∧ SameSpecials s t ∧
      t.draws = s.draws

/-- R112: a sprite whose last byte lies above 0xFFF takes DataOutOfRange before anything is written. -/
def Obligations.DrawOutOfRangeFaults : Prop :=
  ∀ (x y : Reg) (n : Nibble) (s : State), 1 ≤ n.toNat → 0xFFF < s.i.toNat + n.toNat - 1 →
    ∃ t, exec (.draw x y n) s = .next t ∧ FaultTaken .dataOutOfRange s t

/-- Derived from R97: the same `DRAW` twice, with neither coordinate in `VF`, restores every cell, and
`VF` is then 1 exactly if some touched cell was false before the first. -/
def Obligations.DrawTwiceRestores : Prop :=
  ∀ (x y : Reg) (n : Nibble) (s : State), x ≠ 15 → y ≠ 15 → s.SpriteInRange n →
    ∃ t u, exec (.draw x y n) s = .next t ∧ exec (.draw x y n) t = .next u ∧
      (∀ cx cy, u.cell cx cy = s.cell cx cy) ∧
      (u.reg 15 = 1 ↔ ∃ cx cy, s.cell cx cy = false ∧ s.spriteTouches x y n cx cy = true)

/-! ### Unrecognised words -/

/-- R99: on this hardware (lenient) each of the five groups only advances by 2. -/
def Obligations.UnrecognisedIsNoOp : Prop :=
  ∀ (x y : Reg) (n : Nibble) (nnn : Addr) (s : State), s.params.strictUnimpl = false →
    ∀ i ∈ [Instr.unrecognisedU5 x y n, Instr.unrecognisedU8 x y n, Instr.unrecognisedU9 x y n,
        Instr.unrecognisedUE nnn, Instr.unrecognisedUF nnn],
      ∃ t, exec i s = .next t ∧ Advanced 2 s t ∧ SameRegsBut [] s t ∧ SameBesidesRegsPc s t

/-- R108, and the switch of R100: with `STRICT_UNIMPL` each of the five groups takes
UnimplementedOpcode and writes nothing else; without it no instruction takes it; and on the 24
recognised rows, `0nnn` among them, the switch has no effect. -/
def Obligations.UnrecognisedStrictFaults : Prop :=
  (∀ (x y : Reg) (n : Nibble) (nnn : Addr) (s : State), s.params.strictUnimpl = true →
    ∀ i ∈ [Instr.unrecognisedU5 x y n, Instr.unrecognisedU8 x y n, Instr.unrecognisedU9 x y n,
        Instr.unrecognisedUE nnn, Instr.unrecognisedUF nnn],
      ∃ t, exec i s = .next t ∧ FaultTaken .unimplementedOpcode s t) ∧
  (∀ (i : Instr) (s t : State), s.params.strictUnimpl = false → s.fault = .clear →
    exec i s = .next t → t.fault ≠ .unimplementedOpcode) ∧
  (∀ (i : Instr) (s : State) (b : Bool), i.row < 24 →
    exec i (s.setStrict b) = afterwards (State.setStrict b) (exec i s))

/-! ### Reset, timers, keys, observations -/

/-- R28: every element of the state after reset. -/
def Obligations.ResetLeavesItsValues : Prop := State.reset.ResetValues

/-- Derived from R131 and R27: the `Reset` event puts every element at its reset value whatever the
state before. That the parameters and the consumed draws stay is the model's choice (log entries 1
and 2). -/
def Obligations.ResetEventFromAnyState : Prop :=
  ∀ s : State, ∃ t, s.apply .reset = .next t ∧ t.ResetValues ∧ t.mem = [] ∧
    t.params = s.params ∧ t.draws = s.draws

/-- R120: each timer goes down by 1 while above 0 and stays at 0; nothing else changes. -/
def Obligations.UpdateTimersCountsDown : Prop :=
  ∀ s : State, ∃ t, s.apply .updateTimers = .next t ∧
    t.dt.toNat = s.dt.toNat - 1 ∧ t.st.toNat = s.st.toNat - 1 ∧
    { t with dt := s.dt, st := s.st } = s

/-- R124: `KeyWrite(k, b)` sets flag `k` and nothing else. -/
def Obligations.KeyWriteSetsOneFlag : Prop :=
  ∀ (s : State) (k : Fin 16) (b : Bool), ∃ t, s.apply (.keyWrite k b) = .next t ∧
    (∀ j : Fin 16, t.key[j.val] = if j = k then b else s.key[j.val]) ∧ { t with key := s.key } = s

/-- Derived from R23, R30 and R123 (D18): the flat frame has cell (`cx`, `cy`) at `cy × 64 + cx`, and the
sound is on while `ST` is above 0. -/
def Obligations.CollaboratorsRead : Prop :=
  ∀ s : State,
    (∀ (cx : Fin 64) (cy : Fin 32),
      s.flatFrame[cy.val * 64 + cx.val]'(by omega) = s.cell cx cy) ∧
    (s.soundOn = true ↔ s.st ≠ 0)

/-! ### Whole-machine rules -/

/-- Derived from R32, R35, R42, R121 and R125: a `Tick` changes no timer, no key and no byte of memory;
and memory changes only by `LoadProgram` and `Reset`. That it changes no parameter is about a field of the
model's own (log entry 2): R7 fixes the parameters and R27 says they are not state. -/
def Obligations.TickLeavesTimersKeysMemory : Prop :=
  (∀ s t : State, step s = .next t →
    t.dt = s.dt ∧ t.st = s.st ∧ t.key = s.key ∧ t.mem = s.mem ∧ t.params = s.params) ∧
  (∀ (s t : State) (e : Event), e ≠ .reset → (∀ bytes, e ≠ .loadProgram bytes) →
    s.apply e = .next t → t.mem = s.mem)

/-- Derived from R17, R19, R20, R98 and R32: `I` changes only by `Annn`, `SP` only by `CALL` and
`RETURN`, the stack only by `CALL`, the frame buffer only by `CLS` and `DRAW`; a register changes only
if it is the destination or `VF` under one of the flag writers (R14, R15). That a draw is consumed by
`RND` alone, one at a time, is about the model's own counter (log entry 1), after R27 and R92. -/
def Obligations.EachElementHasItsWriters : Prop :=
  ∀ (i : Instr) (s t : State), exec i s = .next t →
    (t.i ≠ s.i → ∃ nnn, i = .ldI nnn) ∧
    (t.sp ≠ s.sp → i = .ret ∨ ∃ nnn, i = .call nnn) ∧
    (t.stack ≠ s.stack → ∃ nnn, i = .call nnn) ∧
    (t.fb ≠ s.fb → i = .cls ∨ ∃ x y n, i = .draw x y n) ∧
    (∀ r : Reg, t.reg r ≠ s.reg r → destinationOf i = some r ∨ (r = 15 ∧ writesFlag i = true)) ∧
    (t.draws ≠ s.draws → t.draws = s.draws + 1 ∧ ∃ x kk, i = .rnd x kk)

/-- The invariants hold at reset: the canonical form of memory, which is the model's choice (log
entry 9), `SP` in range (R19), and the reached shape (R17, R75, R121). -/
def Obligations.InvariantsAtReset : Prop := State.reset.Inv ∧ State.reset.ReachedShape

/-- Derived from R19 and R8: every event, from every state that satisfies it, keeps the machine's
invariant: memory in canonical form, which is the model's choice (log entry 9), and `SP` in 0 to 16. -/
def Obligations.EventsKeepInv : Prop :=
  ∀ (s t : State) (e : Event), s.Inv → s.apply e = .next t → t.Inv

/-- Derived from R17, R75 and R121: every event keeps `I` below 0x1000, `PC` at most 0x10FE, every stack
entry at most 0x1000, and both timers at 0, so `PC` never wraps and the sound never goes on. -/
def Obligations.EventsKeepReachedShape : Prop :=
  ∀ (s t : State) (e : Event), s.ReachedShape → s.apply e = .next t →
    t.ReachedShape ∧ t.soundOn = false

/-- Derived from R129: `Tick`, `UpdateTimers` and `KeyWrite` commute, two by two, on every state. -/
def Obligations.EventsCommute : Prop :=
  ∀ (s : State) (k : Fin 16) (b : Bool),
    step s.updateTimers = afterwards State.updateTimers (step s) ∧
    step (s.keyWrite k b) = afterwards (State.keyWrite k b) (step s) ∧
    s.updateTimers.keyWrite k b = (s.keyWrite k b).updateTimers

/-- Derived from R129: timers and keys aside, what a run of `Tick`s, `UpdateTimers` and `KeyWrite`s
leaves is what its `Tick`s alone leave: the result of a program does not depend on when or how often
the other two occur. -/
def Obligations.ResultIndependentOfTimersAndKeys : Prop :=
  ∀ (events : List Event) (s : State), (∀ e ∈ events, e.isRunning = true) →
    afterwards State.programView (s.applyAll events) =
      afterwards State.programView (s.applyAll (events.filter Event.isTick))

/-- Derived from R139, R132, R44, R120 and R133: in every state that meets the launch premises, whatever
keys were written and timers updated on the way, every element but the keys and memory stands at its reset
value, and memory holds the image at 0x200 and 0 everywhere else. The parameters and the draws are those
of the machine, which `Reset` keeps by the model's choice (log entries 1 and 2). -/
def Obligations.LaunchedStateIsTheImage : Prop :=
  ∀ (image : List Byte) (s : State), s.Launched image →
    image.length ≤ 3584 ∧ { s with key := State.reset.key, mem := [] } = s.resetEvent ∧
    (∀ k (h : k < image.length), s.memRead1 (0x200 + k) = some image[k]) ∧
    (∀ a, a ≤ 0xFFF → (a < 0x200 ∨ 0x200 + image.length ≤ a) → s.memRead1 a = some 0)

/-- Derived from R139 and R133: from a fresh reset, with any `UpdateTimers` and `KeyWrite`s before and
after one load of an image that fits, the launch premises are met. -/
def Obligations.LoadLaunches : Prop :=
  ∀ (before after : List Event) (image : List Byte) (s0 : State),
    s0.FreshReset → image.length ≤ 3584 →
    (∀ e ∈ before ++ after, e.isRunning = true ∧ e.isTick = false) →
    ∃ s, s0.applyAll (before ++ .loadProgram image :: after) = .next s ∧ s.Launched image
end

