-- ==== Sys2Proof/Laws/Decode.lean ====
section
/-! SUPPORT. The fields of a packed word are what was packed (R53 against R64), format by format; a word
is put together from its fields again; and the bytes of a word give it back (R37). -/

namespace Sys2Proof

/-! ### Fields of a packed word -/

@[simp] theorem fieldDigit_packNNN (d : Nibble) (a : Addr) :
    fieldDigit (packNNN d a) = d := by
  rw [fieldDigit, packNNN, BitVec.extractLsb'_append_eq_of_le (by omega), BitVec.extractLsb'_eq_self]

@[simp] theorem fieldNNN_packNNN (d : Nibble) (a : Addr) :
    fieldNNN (packNNN d a) = a := by
  rw [fieldNNN, packNNN, BitVec.extractLsb'_append_eq_of_add_le (by omega), BitVec.extractLsb'_eq_self]

@[simp] theorem fieldDigit_packXKK (d : Nibble) (x : Reg) (kk : Byte) :
    fieldDigit (packXKK d x kk) = d := by
  rw [fieldDigit, packXKK, BitVec.extractLsb'_append_eq_of_le (by omega), BitVec.extractLsb'_append_eq_of_le (by omega), BitVec.extractLsb'_eq_self]

@[simp] theorem fieldX_packXKK (d : Nibble) (x : Reg) (kk : Byte) :
    fieldX (packXKK d x kk) = x := by
  rw [fieldX, packXKK, BitVec.extractLsb'_append_eq_of_le (by omega), BitVec.extractLsb'_append_eq_of_add_le (by omega), BitVec.extractLsb'_eq_self]

@[simp] theorem fieldKK_packXKK (d : Nibble) (x : Reg) (kk : Byte) :
    fieldKK (packXKK d x kk) = kk := by
  rw [fieldKK, packXKK, BitVec.extractLsb'_append_eq_of_add_le (by omega), BitVec.extractLsb'_eq_self]

@[simp] theorem fieldDigit_packXYN (d : Nibble) (x y : Reg) (n : Nibble) :
    fieldDigit (packXYN d x y n) = d := by
  rw [fieldDigit, packXYN, BitVec.extractLsb'_append_eq_of_le (by omega), BitVec.extractLsb'_append_eq_of_le (by omega), BitVec.extractLsb'_append_eq_of_le (by omega), BitVec.extractLsb'_eq_self]

@[simp] theorem fieldX_packXYN (d : Nibble) (x y : Reg) (n : Nibble) :
    fieldX (packXYN d x y n) = x := by
  rw [fieldX, packXYN, BitVec.extractLsb'_append_eq_of_le (by omega), BitVec.extractLsb'_append_eq_of_le (by omega), BitVec.extractLsb'_append_eq_of_add_le (by omega), BitVec.extractLsb'_eq_self]

@[simp] theorem fieldY_packXYN (d : Nibble) (x y : Reg) (n : Nibble) :
    fieldY (packXYN d x y n) = y := by
  rw [fieldY, packXYN, BitVec.extractLsb'_append_eq_of_le (by omega), BitVec.extractLsb'_append_eq_of_add_le (by omega), BitVec.extractLsb'_eq_self]

@[simp] theorem fieldN_packXYN (d : Nibble) (x y : Reg) (n : Nibble) :
    fieldN (packXYN d x y n) = n := by
  rw [fieldN, packXYN, BitVec.extractLsb'_append_eq_of_add_le (by omega), BitVec.extractLsb'_eq_self]

/-! ### A word from its fields and bytes -/

/-- A word is its digit and its `nnn`. -/
theorem packNNN_fields (w : Word) : packNNN (fieldDigit w) (fieldNNN w) = w := by
  rw [packNNN, fieldDigit, fieldNNN, BitVec.extractLsb'_append_extractLsb'_eq_extractLsb' (by rfl)]
  exact BitVec.extractLsb'_eq_self

/-- A word is its digit, its `x` and its `kk`. -/
theorem packXKK_fields (w : Word) : packXKK (fieldDigit w) (fieldX w) (fieldKK w) = w := by
  change w.extractLsb' 12 4 ++ w.extractLsb' 8 4 ++ w.extractLsb' 0 8 = w
  rw [BitVec.extractLsb'_append_extractLsb'_eq_extractLsb' (by rfl),
    BitVec.extractLsb'_append_extractLsb'_eq_extractLsb' (by rfl)]
  exact BitVec.extractLsb'_eq_self

/-- A word is its digit, its `x`, its `y` and its `n`. -/
theorem packXYN_fields (w : Word) :
    packXYN (fieldDigit w) (fieldX w) (fieldY w) (fieldN w) = w := by
  change w.extractLsb' 12 4 ++ w.extractLsb' 8 4 ++ w.extractLsb' 4 4 ++ w.extractLsb' 0 4 = w
  rw [BitVec.extractLsb'_append_extractLsb'_eq_extractLsb' (by rfl),
    BitVec.extractLsb'_append_extractLsb'_eq_extractLsb' (by rfl),
    BitVec.extractLsb'_append_extractLsb'_eq_extractLsb' (by rfl)]
  exact BitVec.extractLsb'_eq_self

/-- The two bytes of a word, high first, are the word (R37). -/
@[simp] theorem wordOfBytes_high_low (w : Word) : wordOfBytes (highByte w) (lowByte w) = w := by
  rw [wordOfBytes, highByte, lowByte, BitVec.extractLsb'_append_extractLsb'_eq_extractLsb' (by rfl)]
  exact BitVec.extractLsb'_eq_self

/-- The high byte of two bytes is the first (R37). -/
@[simp] theorem highByte_wordOfBytes (hi lo : Byte) : highByte (wordOfBytes hi lo) = hi := by
  rw [highByte, wordOfBytes, BitVec.extractLsb'_append_eq_of_le (by omega),
    BitVec.extractLsb'_eq_self]

/-- The low byte of two bytes is the second (R37). -/
@[simp] theorem lowByte_wordOfBytes (hi lo : Byte) : lowByte (wordOfBytes hi lo) = lo := by
  rw [lowByte, wordOfBytes, BitVec.extractLsb'_append_eq_of_add_le (by omega),
    BitVec.extractLsb'_eq_self]

/-- Decoding the two bytes of a word, whatever follows (R52). -/
theorem decode_bytes (w : Word) (rest : List Byte) :
    decode (highByte w :: lowByte w :: rest) = .ok (decodeWord w, rest) := by
  rw [decode, wordOfBytes_high_low]

/-! ### Decoding by the leading digit (R57, R59) -/

/-- A nibble is one of the sixteen digits. -/
theorem nibble_cases (d : Nibble) :
    d = 0x0#4 ∨ d = 0x1#4 ∨ d = 0x2#4 ∨ d = 0x3#4 ∨ d = 0x4#4 ∨ d = 0x5#4 ∨ d = 0x6#4 ∨ d = 0x7#4 ∨
    d = 0x8#4 ∨ d = 0x9#4 ∨ d = 0xA#4 ∨ d = 0xB#4 ∨ d = 0xC#4 ∨ d = 0xD#4 ∨ d = 0xE#4 ∨ d = 0xF#4 := by
  revert d; decide

theorem decodeWord_digit0 {w : Word} (h : fieldDigit w = 0x0#4) :
    decodeWord w = decodeDigit0 w := by
  rw [decodeWord, h]; rfl

theorem decodeWord_digit1 {w : Word} (h : fieldDigit w = 0x1#4) :
    decodeWord w = .jp (fieldNNN w) := by
  rw [decodeWord, h]; rfl

theorem decodeWord_digit2 {w : Word} (h : fieldDigit w = 0x2#4) :
    decodeWord w = .call (fieldNNN w) := by
  rw [decodeWord, h]; rfl

theorem decodeWord_digit3 {w : Word} (h : fieldDigit w = 0x3#4) :
    decodeWord w = .seImm (fieldX w) (fieldKK w) := by
  rw [decodeWord, h]; rfl

theorem decodeWord_digit4 {w : Word} (h : fieldDigit w = 0x4#4) :
    decodeWord w = .sneImm (fieldX w) (fieldKK w) := by
  rw [decodeWord, h]; rfl

theorem decodeWord_digit5 {w : Word} (h : fieldDigit w = 0x5#4) :
    decodeWord w = decodeDigit5 w := by
  rw [decodeWord, h]; rfl

theorem decodeWord_digit6 {w : Word} (h : fieldDigit w = 0x6#4) :
    decodeWord w = .ldImm (fieldX w) (fieldKK w) := by
  rw [decodeWord, h]; rfl

theorem decodeWord_digit7 {w : Word} (h : fieldDigit w = 0x7#4) :
    decodeWord w = .addImm (fieldX w) (fieldKK w) := by
  rw [decodeWord, h]; rfl

theorem decodeWord_digit8 {w : Word} (h : fieldDigit w = 0x8#4) :
    decodeWord w = decodeDigit8 w := by
  rw [decodeWord, h]; rfl

theorem decodeWord_digit9 {w : Word} (h : fieldDigit w = 0x9#4) :
    decodeWord w = decodeDigit9 w := by
  rw [decodeWord, h]; rfl

theorem decodeWord_digitA {w : Word} (h : fieldDigit w = 0xA#4) :
    decodeWord w = .ldI (fieldNNN w) := by
  rw [decodeWord, h]; rfl

theorem decodeWord_digitB {w : Word} (h : fieldDigit w = 0xB#4) :
    decodeWord w = .jpV0 (fieldNNN w) := by
  rw [decodeWord, h]; rfl

theorem decodeWord_digitC {w : Word} (h : fieldDigit w = 0xC#4) :
    decodeWord w = .rnd (fieldX w) (fieldKK w) := by
  rw [decodeWord, h]; rfl

theorem decodeWord_digitD {w : Word} (h : fieldDigit w = 0xD#4) :
    decodeWord w = .draw (fieldX w) (fieldY w) (fieldN w) := by
  rw [decodeWord, h]; rfl

theorem decodeWord_digitE {w : Word} (h : fieldDigit w = 0xE#4) :
    decodeWord w = .unrecognisedUE (fieldNNN w) := by
  rw [decodeWord, h]; rfl

theorem decodeWord_digitF {w : Word} (h : fieldDigit w = 0xF#4) :
    decodeWord w = .unrecognisedUF (fieldNNN w) := by
  rw [decodeWord, h]; rfl

/-! ### Decoding digit 8 by its sub-opcode (R57, R93, R102) -/

theorem decodeWord_digit8_n0 {w : Word} (h : fieldDigit w = 0x8#4) (hn : fieldN w = 0x0#4) :
    decodeWord w = .ldReg (fieldX w) (fieldY w) := by
  rw [decodeWord_digit8 h, decodeDigit8, hn]; rfl

theorem decodeWord_digit8_n1 {w : Word} (h : fieldDigit w = 0x8#4) (hn : fieldN w = 0x1#4) :
    decodeWord w = .orReg (fieldX w) (fieldY w) := by
  rw [decodeWord_digit8 h, decodeDigit8, hn]; rfl

theorem decodeWord_digit8_n2 {w : Word} (h : fieldDigit w = 0x8#4) (hn : fieldN w = 0x2#4) :
    decodeWord w = .andReg (fieldX w) (fieldY w) := by
  rw [decodeWord_digit8 h, decodeDigit8, hn]; rfl

theorem decodeWord_digit8_n3 {w : Word} (h : fieldDigit w = 0x8#4) (hn : fieldN w = 0x3#4) :
    decodeWord w = .xorReg (fieldX w) (fieldY w) := by
  rw [decodeWord_digit8 h, decodeDigit8, hn]; rfl

theorem decodeWord_digit8_n4 {w : Word} (h : fieldDigit w = 0x8#4) (hn : fieldN w = 0x4#4) :
    decodeWord w = .addReg (fieldX w) (fieldY w) := by
  rw [decodeWord_digit8 h, decodeDigit8, hn]; rfl

theorem decodeWord_digit8_n5 {w : Word} (h : fieldDigit w = 0x8#4) (hn : fieldN w = 0x5#4) :
    decodeWord w = .sub (fieldX w) (fieldY w) := by
  rw [decodeWord_digit8 h, decodeDigit8, hn]; rfl

theorem decodeWord_digit8_n6 {w : Word} (h : fieldDigit w = 0x8#4) (hn : fieldN w = 0x6#4) :
    decodeWord w = .shr (fieldX w) (fieldY w) := by
  rw [decodeWord_digit8 h, decodeDigit8, hn]; rfl

theorem decodeWord_digit8_n7 {w : Word} (h : fieldDigit w = 0x8#4) (hn : fieldN w = 0x7#4) :
    decodeWord w = .subn (fieldX w) (fieldY w) := by
  rw [decodeWord_digit8 h, decodeDigit8, hn]; rfl

theorem decodeWord_digit8_nE {w : Word} (h : fieldDigit w = 0x8#4) (hn : fieldN w = 0xE#4) :
    decodeWord w = .shl (fieldX w) (fieldY w) := by
  rw [decodeWord_digit8 h, decodeDigit8, hn]; rfl

theorem decodeWord_digit8_unrecognised {w : Word} (h : fieldDigit w = 0x8#4)
    (hn : isU8Nibble (fieldN w) = true) :
    decodeWord w = .unrecognisedU8 (fieldX w) (fieldY w) (fieldN w) := by
  rw [decodeWord_digit8 h, decodeDigit8]
  generalize fieldN w = n at hn ⊢
  rcases nibble_cases n with hk | hk | hk | hk | hk | hk | hk | hk | hk | hk | hk | hk | hk | hk | hk | hk
  all_goals first | (rw [hk] at hn; exact absurd hn (by decide)) | (rw [hk]; rfl)

end Sys2Proof
end

