-- ==== Sys2Proof/Laws/State.lean ====
section
/-! SUPPORT. What each update of the state does to each field, one lemma per field per update, and what
reading a register gives after each; the simp set that keeps proofs from unfolding record updates. -/

namespace Sys2Proof.Machine

open Sys2Proof

variable (s : State)

/-! ### `setReg` -/

@[simp] theorem State.setReg_v (x : Reg) (b : Byte) : (s.setReg x b).v = s.v.set x.val b := rfl
@[simp] theorem State.setReg_i (x : Reg) (b : Byte) : (s.setReg x b).i = s.i := rfl
@[simp] theorem State.setReg_pc (x : Reg) (b : Byte) : (s.setReg x b).pc = s.pc := rfl
@[simp] theorem State.setReg_sp (x : Reg) (b : Byte) : (s.setReg x b).sp = s.sp := rfl
@[simp] theorem State.setReg_stack (x : Reg) (b : Byte) : (s.setReg x b).stack = s.stack := rfl
@[simp] theorem State.setReg_dt (x : Reg) (b : Byte) : (s.setReg x b).dt = s.dt := rfl
@[simp] theorem State.setReg_st (x : Reg) (b : Byte) : (s.setReg x b).st = s.st := rfl
@[simp] theorem State.setReg_fb (x : Reg) (b : Byte) : (s.setReg x b).fb = s.fb := rfl
@[simp] theorem State.setReg_key (x : Reg) (b : Byte) : (s.setReg x b).key = s.key := rfl
@[simp] theorem State.setReg_mem (x : Reg) (b : Byte) : (s.setReg x b).mem = s.mem := rfl
@[simp] theorem State.setReg_fault (x : Reg) (b : Byte) : (s.setReg x b).fault = s.fault := rfl
@[simp] theorem State.setReg_params (x : Reg) (b : Byte) : (s.setReg x b).params = s.params := rfl
@[simp] theorem State.setReg_draws (x : Reg) (b : Byte) : (s.setReg x b).draws = s.draws := rfl

/-! ### `setVF` -/

@[simp] theorem State.setVF_v (f : Bool) : (s.setVF f).v = s.v.set 15 (flagByte f) := rfl
@[simp] theorem State.setVF_i (f : Bool) : (s.setVF f).i = s.i := rfl
@[simp] theorem State.setVF_pc (f : Bool) : (s.setVF f).pc = s.pc := rfl
@[simp] theorem State.setVF_sp (f : Bool) : (s.setVF f).sp = s.sp := rfl
@[simp] theorem State.setVF_stack (f : Bool) : (s.setVF f).stack = s.stack := rfl
@[simp] theorem State.setVF_dt (f : Bool) : (s.setVF f).dt = s.dt := rfl
@[simp] theorem State.setVF_st (f : Bool) : (s.setVF f).st = s.st := rfl
@[simp] theorem State.setVF_fb (f : Bool) : (s.setVF f).fb = s.fb := rfl
@[simp] theorem State.setVF_key (f : Bool) : (s.setVF f).key = s.key := rfl
@[simp] theorem State.setVF_mem (f : Bool) : (s.setVF f).mem = s.mem := rfl
@[simp] theorem State.setVF_fault (f : Bool) : (s.setVF f).fault = s.fault := rfl
@[simp] theorem State.setVF_params (f : Bool) : (s.setVF f).params = s.params := rfl
@[simp] theorem State.setVF_draws (f : Bool) : (s.setVF f).draws = s.draws := rfl

/-! ### `setI` -/

@[simp] theorem State.setI_v (w : Word) : (s.setI w).v = s.v := rfl
@[simp] theorem State.setI_i (w : Word) : (s.setI w).i = w := rfl
@[simp] theorem State.setI_pc (w : Word) : (s.setI w).pc = s.pc := rfl
@[simp] theorem State.setI_sp (w : Word) : (s.setI w).sp = s.sp := rfl
@[simp] theorem State.setI_stack (w : Word) : (s.setI w).stack = s.stack := rfl
@[simp] theorem State.setI_dt (w : Word) : (s.setI w).dt = s.dt := rfl
@[simp] theorem State.setI_st (w : Word) : (s.setI w).st = s.st := rfl
@[simp] theorem State.setI_fb (w : Word) : (s.setI w).fb = s.fb := rfl
@[simp] theorem State.setI_key (w : Word) : (s.setI w).key = s.key := rfl
@[simp] theorem State.setI_mem (w : Word) : (s.setI w).mem = s.mem := rfl
@[simp] theorem State.setI_fault (w : Word) : (s.setI w).fault = s.fault := rfl
@[simp] theorem State.setI_params (w : Word) : (s.setI w).params = s.params := rfl
@[simp] theorem State.setI_draws (w : Word) : (s.setI w).draws = s.draws := rfl

/-! ### `setPc` -/

@[simp] theorem State.setPc_v (w : Word) : (s.setPc w).v = s.v := rfl
@[simp] theorem State.setPc_i (w : Word) : (s.setPc w).i = s.i := rfl
@[simp] theorem State.setPc_pc (w : Word) : (s.setPc w).pc = w := rfl
@[simp] theorem State.setPc_sp (w : Word) : (s.setPc w).sp = s.sp := rfl
@[simp] theorem State.setPc_stack (w : Word) : (s.setPc w).stack = s.stack := rfl
@[simp] theorem State.setPc_dt (w : Word) : (s.setPc w).dt = s.dt := rfl
@[simp] theorem State.setPc_st (w : Word) : (s.setPc w).st = s.st := rfl
@[simp] theorem State.setPc_fb (w : Word) : (s.setPc w).fb = s.fb := rfl
@[simp] theorem State.setPc_key (w : Word) : (s.setPc w).key = s.key := rfl
@[simp] theorem State.setPc_mem (w : Word) : (s.setPc w).mem = s.mem := rfl
@[simp] theorem State.setPc_fault (w : Word) : (s.setPc w).fault = s.fault := rfl
@[simp] theorem State.setPc_params (w : Word) : (s.setPc w).params = s.params := rfl
@[simp] theorem State.setPc_draws (w : Word) : (s.setPc w).draws = s.draws := rfl

/-! ### `advance` -/

@[simp] theorem State.advance_v (k : Nat) : (s.advance k).v = s.v := rfl
@[simp] theorem State.advance_i (k : Nat) : (s.advance k).i = s.i := rfl
@[simp] theorem State.advance_pc (k : Nat) : (s.advance k).pc = s.pc + BitVec.ofNat 16 k := rfl
@[simp] theorem State.advance_sp (k : Nat) : (s.advance k).sp = s.sp := rfl
@[simp] theorem State.advance_stack (k : Nat) : (s.advance k).stack = s.stack := rfl
@[simp] theorem State.advance_dt (k : Nat) : (s.advance k).dt = s.dt := rfl
@[simp] theorem State.advance_st (k : Nat) : (s.advance k).st = s.st := rfl
@[simp] theorem State.advance_fb (k : Nat) : (s.advance k).fb = s.fb := rfl
@[simp] theorem State.advance_key (k : Nat) : (s.advance k).key = s.key := rfl
@[simp] theorem State.advance_mem (k : Nat) : (s.advance k).mem = s.mem := rfl
@[simp] theorem State.advance_fault (k : Nat) : (s.advance k).fault = s.fault := rfl
@[simp] theorem State.advance_params (k : Nat) : (s.advance k).params = s.params := rfl
@[simp] theorem State.advance_draws (k : Nat) : (s.advance k).draws = s.draws := rfl

/-! ### `skipIf` -/

@[simp] theorem State.skipIf_v (c : Bool) : (s.skipIf c).v = s.v := by cases c <;> rfl
@[simp] theorem State.skipIf_i (c : Bool) : (s.skipIf c).i = s.i := by cases c <;> rfl
@[simp] theorem State.skipIf_pc (c : Bool) : (s.skipIf c).pc = s.pc + (if c then 4 else 2) := by cases c <;> rfl
@[simp] theorem State.skipIf_sp (c : Bool) : (s.skipIf c).sp = s.sp := by cases c <;> rfl
@[simp] theorem State.skipIf_stack (c : Bool) : (s.skipIf c).stack = s.stack := by cases c <;> rfl
@[simp] theorem State.skipIf_dt (c : Bool) : (s.skipIf c).dt = s.dt := by cases c <;> rfl
@[simp] theorem State.skipIf_st (c : Bool) : (s.skipIf c).st = s.st := by cases c <;> rfl
@[simp] theorem State.skipIf_fb (c : Bool) : (s.skipIf c).fb = s.fb := by cases c <;> rfl
@[simp] theorem State.skipIf_key (c : Bool) : (s.skipIf c).key = s.key := by cases c <;> rfl
@[simp] theorem State.skipIf_mem (c : Bool) : (s.skipIf c).mem = s.mem := by cases c <;> rfl
@[simp] theorem State.skipIf_fault (c : Bool) : (s.skipIf c).fault = s.fault := by cases c <;> rfl
@[simp] theorem State.skipIf_params (c : Bool) : (s.skipIf c).params = s.params := by cases c <;> rfl
@[simp] theorem State.skipIf_draws (c : Bool) : (s.skipIf c).draws = s.draws := by cases c <;> rfl

/-! ### `push` -/

@[simp] theorem State.push_v (w : Word) : (s.push w).v = s.v := rfl
@[simp] theorem State.push_i (w : Word) : (s.push w).i = s.i := rfl
@[simp] theorem State.push_pc (w : Word) : (s.push w).pc = s.pc := rfl
@[simp] theorem State.push_sp (w : Word) : (s.push w).sp = s.sp + 1 := rfl
@[simp] theorem State.push_stack (w : Word) : (s.push w).stack = s.stack.setIfInBounds s.sp.toNat w := rfl
@[simp] theorem State.push_dt (w : Word) : (s.push w).dt = s.dt := rfl
@[simp] theorem State.push_st (w : Word) : (s.push w).st = s.st := rfl
@[simp] theorem State.push_fb (w : Word) : (s.push w).fb = s.fb := rfl
@[simp] theorem State.push_key (w : Word) : (s.push w).key = s.key := rfl
@[simp] theorem State.push_mem (w : Word) : (s.push w).mem = s.mem := rfl
@[simp] theorem State.push_fault (w : Word) : (s.push w).fault = s.fault := rfl
@[simp] theorem State.push_params (w : Word) : (s.push w).params = s.params := rfl
@[simp] theorem State.push_draws (w : Word) : (s.push w).draws = s.draws := rfl

/-! ### `dropTop` -/

@[simp] theorem State.dropTop_v : (s.dropTop).v = s.v := rfl
@[simp] theorem State.dropTop_i : (s.dropTop).i = s.i := rfl
@[simp] theorem State.dropTop_pc : (s.dropTop).pc = s.pc := rfl
@[simp] theorem State.dropTop_sp : (s.dropTop).sp = s.sp - 1 := rfl
@[simp] theorem State.dropTop_stack : (s.dropTop).stack = s.stack := rfl
@[simp] theorem State.dropTop_dt : (s.dropTop).dt = s.dt := rfl
@[simp] theorem State.dropTop_st : (s.dropTop).st = s.st := rfl
@[simp] theorem State.dropTop_fb : (s.dropTop).fb = s.fb := rfl
@[simp] theorem State.dropTop_key : (s.dropTop).key = s.key := rfl
@[simp] theorem State.dropTop_mem : (s.dropTop).mem = s.mem := rfl
@[simp] theorem State.dropTop_fault : (s.dropTop).fault = s.fault := rfl
@[simp] theorem State.dropTop_params : (s.dropTop).params = s.params := rfl
@[simp] theorem State.dropTop_draws : (s.dropTop).draws = s.draws := rfl

/-! ### `setFb` -/

@[simp] theorem State.setFb_v (fb : FrameBuffer) : (s.setFb fb).v = s.v := rfl
@[simp] theorem State.setFb_i (fb : FrameBuffer) : (s.setFb fb).i = s.i := rfl
@[simp] theorem State.setFb_pc (fb : FrameBuffer) : (s.setFb fb).pc = s.pc := rfl
@[simp] theorem State.setFb_sp (fb : FrameBuffer) : (s.setFb fb).sp = s.sp := rfl
@[simp] theorem State.setFb_stack (fb : FrameBuffer) : (s.setFb fb).stack = s.stack := rfl
@[simp] theorem State.setFb_dt (fb : FrameBuffer) : (s.setFb fb).dt = s.dt := rfl
@[simp] theorem State.setFb_st (fb : FrameBuffer) : (s.setFb fb).st = s.st := rfl
@[simp] theorem State.setFb_fb (fb : FrameBuffer) : (s.setFb fb).fb = fb := rfl
@[simp] theorem State.setFb_key (fb : FrameBuffer) : (s.setFb fb).key = s.key := rfl
@[simp] theorem State.setFb_mem (fb : FrameBuffer) : (s.setFb fb).mem = s.mem := rfl
@[simp] theorem State.setFb_fault (fb : FrameBuffer) : (s.setFb fb).fault = s.fault := rfl
@[simp] theorem State.setFb_params (fb : FrameBuffer) : (s.setFb fb).params = s.params := rfl
@[simp] theorem State.setFb_draws (fb : FrameBuffer) : (s.setFb fb).draws = s.draws := rfl

/-! ### `raise` -/

@[simp] theorem State.raise_v (r : FaultReport) : (s.raise r).v = s.v := rfl
@[simp] theorem State.raise_i (r : FaultReport) : (s.raise r).i = s.i := rfl
@[simp] theorem State.raise_pc (r : FaultReport) : (s.raise r).pc = s.pc := rfl
@[simp] theorem State.raise_sp (r : FaultReport) : (s.raise r).sp = s.sp := rfl
@[simp] theorem State.raise_stack (r : FaultReport) : (s.raise r).stack = s.stack := rfl
@[simp] theorem State.raise_dt (r : FaultReport) : (s.raise r).dt = s.dt := rfl
@[simp] theorem State.raise_st (r : FaultReport) : (s.raise r).st = s.st := rfl
@[simp] theorem State.raise_fb (r : FaultReport) : (s.raise r).fb = s.fb := rfl
@[simp] theorem State.raise_key (r : FaultReport) : (s.raise r).key = s.key := rfl
@[simp] theorem State.raise_mem (r : FaultReport) : (s.raise r).mem = s.mem := rfl
@[simp] theorem State.raise_fault (r : FaultReport) : (s.raise r).fault = (if s.fault = .clear then r.code else s.fault) := rfl
@[simp] theorem State.raise_params (r : FaultReport) : (s.raise r).params = s.params := rfl
@[simp] theorem State.raise_draws (r : FaultReport) : (s.raise r).draws = s.draws := rfl

/-! ### `consumeDraw` -/

@[simp] theorem State.consumeDraw_v : (s.consumeDraw).v = s.v := rfl
@[simp] theorem State.consumeDraw_i : (s.consumeDraw).i = s.i := rfl
@[simp] theorem State.consumeDraw_pc : (s.consumeDraw).pc = s.pc := rfl
@[simp] theorem State.consumeDraw_sp : (s.consumeDraw).sp = s.sp := rfl
@[simp] theorem State.consumeDraw_stack : (s.consumeDraw).stack = s.stack := rfl
@[simp] theorem State.consumeDraw_dt : (s.consumeDraw).dt = s.dt := rfl
@[simp] theorem State.consumeDraw_st : (s.consumeDraw).st = s.st := rfl
@[simp] theorem State.consumeDraw_fb : (s.consumeDraw).fb = s.fb := rfl
@[simp] theorem State.consumeDraw_key : (s.consumeDraw).key = s.key := rfl
@[simp] theorem State.consumeDraw_mem : (s.consumeDraw).mem = s.mem := rfl
@[simp] theorem State.consumeDraw_fault : (s.consumeDraw).fault = s.fault := rfl
@[simp] theorem State.consumeDraw_params : (s.consumeDraw).params = s.params := rfl
@[simp] theorem State.consumeDraw_draws : (s.consumeDraw).draws = s.draws + 1 := rfl

/-! ### `loadReg` -/

@[simp] theorem State.loadReg_v (x : Reg) (b : Byte) : (s.loadReg x b).v = s.v.set x.val b := rfl
@[simp] theorem State.loadReg_i (x : Reg) (b : Byte) : (s.loadReg x b).i = s.i := rfl
@[simp] theorem State.loadReg_pc (x : Reg) (b : Byte) : (s.loadReg x b).pc = s.pc + 2 := rfl
@[simp] theorem State.loadReg_sp (x : Reg) (b : Byte) : (s.loadReg x b).sp = s.sp := rfl
@[simp] theorem State.loadReg_stack (x : Reg) (b : Byte) : (s.loadReg x b).stack = s.stack := rfl
@[simp] theorem State.loadReg_dt (x : Reg) (b : Byte) : (s.loadReg x b).dt = s.dt := rfl
@[simp] theorem State.loadReg_st (x : Reg) (b : Byte) : (s.loadReg x b).st = s.st := rfl
@[simp] theorem State.loadReg_fb (x : Reg) (b : Byte) : (s.loadReg x b).fb = s.fb := rfl
@[simp] theorem State.loadReg_key (x : Reg) (b : Byte) : (s.loadReg x b).key = s.key := rfl
@[simp] theorem State.loadReg_mem (x : Reg) (b : Byte) : (s.loadReg x b).mem = s.mem := rfl
@[simp] theorem State.loadReg_fault (x : Reg) (b : Byte) : (s.loadReg x b).fault = s.fault := rfl
@[simp] theorem State.loadReg_params (x : Reg) (b : Byte) : (s.loadReg x b).params = s.params := rfl
@[simp] theorem State.loadReg_draws (x : Reg) (b : Byte) : (s.loadReg x b).draws = s.draws := rfl

/-! ### `flagThenResult` -/

@[simp] theorem State.flagThenResult_v (f : Bool) (x : Reg) (g : State → Byte) : (s.flagThenResult f x g).v = ((s.setVF f).setReg x (g (s.resultSource (s.setVF f)))).v := rfl
@[simp] theorem State.flagThenResult_i (f : Bool) (x : Reg) (g : State → Byte) : (s.flagThenResult f x g).i = s.i := rfl
@[simp] theorem State.flagThenResult_pc (f : Bool) (x : Reg) (g : State → Byte) : (s.flagThenResult f x g).pc = s.pc + 2 := rfl
@[simp] theorem State.flagThenResult_sp (f : Bool) (x : Reg) (g : State → Byte) : (s.flagThenResult f x g).sp = s.sp := rfl
@[simp] theorem State.flagThenResult_stack (f : Bool) (x : Reg) (g : State → Byte) : (s.flagThenResult f x g).stack = s.stack := rfl
@[simp] theorem State.flagThenResult_dt (f : Bool) (x : Reg) (g : State → Byte) : (s.flagThenResult f x g).dt = s.dt := rfl
@[simp] theorem State.flagThenResult_st (f : Bool) (x : Reg) (g : State → Byte) : (s.flagThenResult f x g).st = s.st := rfl
@[simp] theorem State.flagThenResult_fb (f : Bool) (x : Reg) (g : State → Byte) : (s.flagThenResult f x g).fb = s.fb := rfl
@[simp] theorem State.flagThenResult_key (f : Bool) (x : Reg) (g : State → Byte) : (s.flagThenResult f x g).key = s.key := rfl
@[simp] theorem State.flagThenResult_mem (f : Bool) (x : Reg) (g : State → Byte) : (s.flagThenResult f x g).mem = s.mem := rfl
@[simp] theorem State.flagThenResult_fault (f : Bool) (x : Reg) (g : State → Byte) : (s.flagThenResult f x g).fault = s.fault := rfl
@[simp] theorem State.flagThenResult_params (f : Bool) (x : Reg) (g : State → Byte) : (s.flagThenResult f x g).params = s.params := rfl
@[simp] theorem State.flagThenResult_draws (f : Bool) (x : Reg) (g : State → Byte) : (s.flagThenResult f x g).draws = s.draws := rfl

/-! ### `updateTimers` -/

@[simp] theorem State.updateTimers_v : (s.updateTimers).v = s.v := rfl
@[simp] theorem State.updateTimers_i : (s.updateTimers).i = s.i := rfl
@[simp] theorem State.updateTimers_pc : (s.updateTimers).pc = s.pc := rfl
@[simp] theorem State.updateTimers_sp : (s.updateTimers).sp = s.sp := rfl
@[simp] theorem State.updateTimers_stack : (s.updateTimers).stack = s.stack := rfl
@[simp] theorem State.updateTimers_dt : (s.updateTimers).dt = timerDown s.dt := rfl
@[simp] theorem State.updateTimers_st : (s.updateTimers).st = timerDown s.st := rfl
@[simp] theorem State.updateTimers_fb : (s.updateTimers).fb = s.fb := rfl
@[simp] theorem State.updateTimers_key : (s.updateTimers).key = s.key := rfl
@[simp] theorem State.updateTimers_mem : (s.updateTimers).mem = s.mem := rfl
@[simp] theorem State.updateTimers_fault : (s.updateTimers).fault = s.fault := rfl
@[simp] theorem State.updateTimers_params : (s.updateTimers).params = s.params := rfl
@[simp] theorem State.updateTimers_draws : (s.updateTimers).draws = s.draws := rfl

/-! ### `keyWrite` -/

@[simp] theorem State.keyWrite_v (k : Fin 16) (b : Bool) : (s.keyWrite k b).v = s.v := rfl
@[simp] theorem State.keyWrite_i (k : Fin 16) (b : Bool) : (s.keyWrite k b).i = s.i := rfl
@[simp] theorem State.keyWrite_pc (k : Fin 16) (b : Bool) : (s.keyWrite k b).pc = s.pc := rfl
@[simp] theorem State.keyWrite_sp (k : Fin 16) (b : Bool) : (s.keyWrite k b).sp = s.sp := rfl
@[simp] theorem State.keyWrite_stack (k : Fin 16) (b : Bool) : (s.keyWrite k b).stack = s.stack := rfl
@[simp] theorem State.keyWrite_dt (k : Fin 16) (b : Bool) : (s.keyWrite k b).dt = s.dt := rfl
@[simp] theorem State.keyWrite_st (k : Fin 16) (b : Bool) : (s.keyWrite k b).st = s.st := rfl
@[simp] theorem State.keyWrite_fb (k : Fin 16) (b : Bool) : (s.keyWrite k b).fb = s.fb := rfl
@[simp] theorem State.keyWrite_key (k : Fin 16) (b : Bool) : (s.keyWrite k b).key = s.key.set k.val b := rfl
@[simp] theorem State.keyWrite_mem (k : Fin 16) (b : Bool) : (s.keyWrite k b).mem = s.mem := rfl
@[simp] theorem State.keyWrite_fault (k : Fin 16) (b : Bool) : (s.keyWrite k b).fault = s.fault := rfl
@[simp] theorem State.keyWrite_params (k : Fin 16) (b : Bool) : (s.keyWrite k b).params = s.params := rfl
@[simp] theorem State.keyWrite_draws (k : Fin 16) (b : Bool) : (s.keyWrite k b).draws = s.draws := rfl

/-! ### `resetEvent` -/

@[simp] theorem State.resetEvent_v : s.resetEvent.v = State.reset.v := rfl
@[simp] theorem State.resetEvent_i : s.resetEvent.i = State.reset.i := rfl
@[simp] theorem State.resetEvent_pc : s.resetEvent.pc = State.reset.pc := rfl
@[simp] theorem State.resetEvent_sp : s.resetEvent.sp = State.reset.sp := rfl
@[simp] theorem State.resetEvent_stack : s.resetEvent.stack = State.reset.stack := rfl
@[simp] theorem State.resetEvent_dt : s.resetEvent.dt = State.reset.dt := rfl
@[simp] theorem State.resetEvent_st : s.resetEvent.st = State.reset.st := rfl
@[simp] theorem State.resetEvent_fb : s.resetEvent.fb = State.reset.fb := rfl
@[simp] theorem State.resetEvent_key : s.resetEvent.key = State.reset.key := rfl
@[simp] theorem State.resetEvent_mem : s.resetEvent.mem = State.reset.mem := rfl
@[simp] theorem State.resetEvent_fault : s.resetEvent.fault = State.reset.fault := rfl
@[simp] theorem State.resetEvent_params : s.resetEvent.params = s.params := rfl
@[simp] theorem State.resetEvent_draws : s.resetEvent.draws = s.draws := rfl

/-! ### `memWrite` (its `mem` is in Laws/Memory.lean) -/

@[simp] theorem State.memWrite_v (a : Nat) (b : Byte) : (s.memWrite a b).v = s.v := by
  unfold State.memWrite; split <;> rfl
@[simp] theorem State.memWrite_i (a : Nat) (b : Byte) : (s.memWrite a b).i = s.i := by
  unfold State.memWrite; split <;> rfl
@[simp] theorem State.memWrite_pc (a : Nat) (b : Byte) : (s.memWrite a b).pc = s.pc := by
  unfold State.memWrite; split <;> rfl
@[simp] theorem State.memWrite_sp (a : Nat) (b : Byte) : (s.memWrite a b).sp = s.sp := by
  unfold State.memWrite; split <;> rfl
@[simp] theorem State.memWrite_stack (a : Nat) (b : Byte) : (s.memWrite a b).stack = s.stack := by
  unfold State.memWrite; split <;> rfl
@[simp] theorem State.memWrite_dt (a : Nat) (b : Byte) : (s.memWrite a b).dt = s.dt := by
  unfold State.memWrite; split <;> rfl
@[simp] theorem State.memWrite_st (a : Nat) (b : Byte) : (s.memWrite a b).st = s.st := by
  unfold State.memWrite; split <;> rfl
@[simp] theorem State.memWrite_fb (a : Nat) (b : Byte) : (s.memWrite a b).fb = s.fb := by
  unfold State.memWrite; split <;> rfl
@[simp] theorem State.memWrite_key (a : Nat) (b : Byte) : (s.memWrite a b).key = s.key := by
  unfold State.memWrite; split <;> rfl
@[simp] theorem State.memWrite_fault (a : Nat) (b : Byte) : (s.memWrite a b).fault = s.fault := by
  unfold State.memWrite; split <;> rfl
@[simp] theorem State.memWrite_params (a : Nat) (b : Byte) : (s.memWrite a b).params = s.params := by
  unfold State.memWrite; split <;> rfl
@[simp] theorem State.memWrite_draws (a : Nat) (b : Byte) : (s.memWrite a b).draws = s.draws := by
  unfold State.memWrite; split <;> rfl

/-! ### `memWriteAll` -/

@[simp] theorem State.memWriteAll_v (a : Nat) (bs : List Byte) :
    (s.memWriteAll a bs).v = s.v := by
  induction bs generalizing a s with
  | nil => rfl
  | cons b bs ih => rw [State.memWriteAll, ih, State.memWrite_v]
@[simp] theorem State.memWriteAll_i (a : Nat) (bs : List Byte) :
    (s.memWriteAll a bs).i = s.i := by
  induction bs generalizing a s with
  | nil => rfl
  | cons b bs ih => rw [State.memWriteAll, ih, State.memWrite_i]
@[simp] theorem State.memWriteAll_pc (a : Nat) (bs : List Byte) :
    (s.memWriteAll a bs).pc = s.pc := by
  induction bs generalizing a s with
  | nil => rfl
  | cons b bs ih => rw [State.memWriteAll, ih, State.memWrite_pc]
@[simp] theorem State.memWriteAll_sp (a : Nat) (bs : List Byte) :
    (s.memWriteAll a bs).sp = s.sp := by
  induction bs generalizing a s with
  | nil => rfl
  | cons b bs ih => rw [State.memWriteAll, ih, State.memWrite_sp]
@[simp] theorem State.memWriteAll_stack (a : Nat) (bs : List Byte) :
    (s.memWriteAll a bs).stack = s.stack := by
  induction bs generalizing a s with
  | nil => rfl
  | cons b bs ih => rw [State.memWriteAll, ih, State.memWrite_stack]
@[simp] theorem State.memWriteAll_dt (a : Nat) (bs : List Byte) :
    (s.memWriteAll a bs).dt = s.dt := by
  induction bs generalizing a s with
  | nil => rfl
  | cons b bs ih => rw [State.memWriteAll, ih, State.memWrite_dt]
@[simp] theorem State.memWriteAll_st (a : Nat) (bs : List Byte) :
    (s.memWriteAll a bs).st = s.st := by
  induction bs generalizing a s with
  | nil => rfl
  | cons b bs ih => rw [State.memWriteAll, ih, State.memWrite_st]
@[simp] theorem State.memWriteAll_fb (a : Nat) (bs : List Byte) :
    (s.memWriteAll a bs).fb = s.fb := by
  induction bs generalizing a s with
  | nil => rfl
  | cons b bs ih => rw [State.memWriteAll, ih, State.memWrite_fb]
@[simp] theorem State.memWriteAll_key (a : Nat) (bs : List Byte) :
    (s.memWriteAll a bs).key = s.key := by
  induction bs generalizing a s with
  | nil => rfl
  | cons b bs ih => rw [State.memWriteAll, ih, State.memWrite_key]
@[simp] theorem State.memWriteAll_fault (a : Nat) (bs : List Byte) :
    (s.memWriteAll a bs).fault = s.fault := by
  induction bs generalizing a s with
  | nil => rfl
  | cons b bs ih => rw [State.memWriteAll, ih, State.memWrite_fault]
@[simp] theorem State.memWriteAll_params (a : Nat) (bs : List Byte) :
    (s.memWriteAll a bs).params = s.params := by
  induction bs generalizing a s with
  | nil => rfl
  | cons b bs ih => rw [State.memWriteAll, ih, State.memWrite_params]
@[simp] theorem State.memWriteAll_draws (a : Nat) (bs : List Byte) :
    (s.memWriteAll a bs).draws = s.draws := by
  induction bs generalizing a s with
  | nil => rfl
  | cons b bs ih => rw [State.memWriteAll, ih, State.memWrite_draws]

/-! ### Reading a register after an update -/

theorem State.reg_setReg (x y : Reg) (b : Byte) :
    (s.setReg x b).reg y = if y = x then b else s.reg y := by
  simp only [State.reg, State.setReg_v, Vector.getElem_set, Fin.val_inj, eq_comm (a := x)]

@[simp] theorem State.reg_setReg_self (x : Reg) (b : Byte) : (s.setReg x b).reg x = b := by
  simp [State.reg_setReg]

theorem State.reg_setReg_ne (x y : Reg) (b : Byte) (h : y ≠ x) :
    (s.setReg x b).reg y = s.reg y := by
  simp [State.reg_setReg, h]

theorem State.reg_setVF (f : Bool) (y : Reg) :
    (s.setVF f).reg y = if y = vf then flagByte f else s.reg y :=
  s.reg_setReg vf y _

theorem State.reg_loadReg (x y : Reg) (b : Byte) :
    (s.loadReg x b).reg y = if y = x then b else s.reg y :=
  s.reg_setReg x y b

/-- The registers after `V[0xF] <- f; V[x] <- result`: the result is written last (R79). -/
theorem State.reg_flagThenResult (f : Bool) (x y : Reg) (g : State → Byte) :
    (s.flagThenResult f x g).reg y =
      if y = x then g (s.resultSource (s.setVF f)) else if y = vf then flagByte f else s.reg y := by
  rw [show (s.flagThenResult f x g).reg y =
      ((s.setVF f).setReg x (g (s.resultSource (s.setVF f)))).reg y from rfl,
    State.reg_setReg, State.reg_setVF]

@[simp] theorem State.reg_setI (w : Word) (y : Reg) : (s.setI w).reg y = s.reg y := rfl
@[simp] theorem State.reg_setPc (w : Word) (y : Reg) : (s.setPc w).reg y = s.reg y := rfl
@[simp] theorem State.reg_advance (k : Nat) (y : Reg) : (s.advance k).reg y = s.reg y := rfl
@[simp] theorem State.reg_push (w : Word) (y : Reg) : (s.push w).reg y = s.reg y := rfl
@[simp] theorem State.reg_dropTop (y : Reg) : (s.dropTop).reg y = s.reg y := rfl
@[simp] theorem State.reg_setFb (fb : FrameBuffer) (y : Reg) : (s.setFb fb).reg y = s.reg y := rfl
@[simp] theorem State.reg_raise (r : FaultReport) (y : Reg) : (s.raise r).reg y = s.reg y := rfl
@[simp] theorem State.reg_consumeDraw (y : Reg) : (s.consumeDraw).reg y = s.reg y := rfl

@[simp] theorem State.reg_skipIf (c : Bool) (y : Reg) : (s.skipIf c).reg y = s.reg y := by
  cases c <;> rfl

/-! ### The registers a result statement reads (R79, D7) -/

theorem State.resultSource_sequential (t : State) (h : s.params.vfAliasOrder = .sequential) :
    s.resultSource t = t := by
  rw [State.resultSource, h]

theorem State.resultSource_latched (t : State) (h : s.params.vfAliasOrder = .latched) :
    s.resultSource t = s := by
  rw [State.resultSource, h]

end Sys2Proof.Machine
end

