-- ==== Sys2Proof/Laws/Memory.lean ====
section
/-! SUPPORT. Memory: the canonical form is kept by every operation, and a read after a write gives the
byte written at its address and the old byte everywhere else. -/

namespace Sys2Proof.Machine

open Sys2Proof

/-- Memory at reset is canonical. -/
theorem Memory.wf_reset : Memory.wf State.reset.mem = true := rfl

/-- A canonical memory from `lo` on lists nothing below `lo`. -/
theorem Memory.read_below {lo : Nat} {m : Memory} (h : Memory.wfFrom lo m = true) {k : Nat}
    (hk : k < lo) : Memory.read m k = 0 := by
  induction m generalizing lo with
  | nil => rfl
  | cons c rest ih =>
    obtain ⟨a, b⟩ := c
    simp only [Memory.wfFrom, Bool.and_eq_true, decide_eq_true_eq] at h
    rw [Memory.read, if_neg (by omega)]
    exact ih h.2 (by omega)

/-- The canonical form from a lower address on. -/
theorem Memory.wfFrom_mono {lo lo' : Nat} {m : Memory} (h : Memory.wfFrom lo m = true)
    (hl : lo' ≤ lo) : Memory.wfFrom lo' m = true := by
  cases m with
  | nil => rfl
  | cons c rest =>
    obtain ⟨a, b⟩ := c
    simp only [Memory.wfFrom, Bool.and_eq_true, decide_eq_true_eq] at h ⊢
    exact ⟨⟨⟨by omega, h.1.1.2⟩, h.1.2⟩, h.2⟩

/-- Inserting keeps the canonical form. -/
theorem Memory.wfFrom_insert {lo : Nat} {m : Memory} (h : Memory.wfFrom lo m = true) {k : Nat}
    (hk : lo ≤ k) (hk' : k < Config.memSize) (b : Byte) :
    Memory.wfFrom lo (Memory.insert m k b) = true := by
  induction m generalizing lo with
  | nil =>
    unfold Memory.insert
    split
    · rfl
    · simp_all [Memory.wfFrom]
  | cons c rest ih =>
    obtain ⟨a, c⟩ := c
    have h' := h
    simp only [Memory.wfFrom, Bool.and_eq_true, decide_eq_true_eq] at h
    obtain ⟨⟨⟨h1, h2⟩, h3⟩, h4⟩ := h
    unfold Memory.insert
    split
    · split
      · exact h'
      · simp_all [Memory.wfFrom]
    · split
      · split
        · exact Memory.wfFrom_mono h4 (by omega)
        · simp_all [Memory.wfFrom]
      · simp only [Memory.wfFrom, Bool.and_eq_true, decide_eq_true_eq]
        exact ⟨⟨⟨h1, h2⟩, h3⟩, ih h4 (by omega)⟩

/-- Reading after inserting. -/
theorem Memory.read_insert {lo : Nat} {m : Memory} (h : Memory.wfFrom lo m = true) (k a : Nat)
    (b : Byte) : Memory.read (Memory.insert m k b) a = if a = k then b else Memory.read m a := by
  induction m generalizing lo with
  | nil =>
    unfold Memory.insert
    split
    · split <;> simp_all [Memory.read]
    · rfl
  | cons c rest ih =>
    obtain ⟨a', c⟩ := c
    have h' := h
    simp only [Memory.wfFrom, Bool.and_eq_true, decide_eq_true_eq] at h
    obtain ⟨⟨⟨h1, h2⟩, h3⟩, h4⟩ := h
    unfold Memory.insert
    split
    · split
      · split
        · next hb ha =>
          subst ha hb
          rw [Memory.read, if_neg (by omega)]
          exact Memory.read_below h4 (by omega)
        · rfl
      · rfl
    · split
      · next hk =>
        subst hk
        split
        · next hb =>
          subst hb
          by_cases ha : a = k
          · rw [if_pos ha, ha]
            exact Memory.read_below h4 (by omega)
          · rw [if_neg ha, Memory.read, if_neg ha]
        · by_cases ha : a = k <;> simp [Memory.read, ha]
      · next hk1 hk2 =>
        rw [Memory.read, Memory.read, ih h4]
        by_cases ha : a = a'
        · rw [if_pos ha, if_pos ha, if_neg (by omega)]
        · rw [if_neg ha, if_neg ha]

/-- `MemWrite` keeps the canonical form. -/
theorem State.memWrite_wf {s : State} (h : Memory.wf s.mem = true) (a : Nat) (b : Byte) :
    Memory.wf (s.memWrite a b).mem = true := by
  unfold State.memWrite
  split
  · exact Memory.wfFrom_insert h (by omega) ‹_› b
  · exact h

/-- A run of writes keeps the canonical form. -/
theorem State.memWriteAll_wf {s : State} (h : Memory.wf s.mem = true) (a : Nat) (bs : List Byte) :
    Memory.wf (s.memWriteAll a bs).mem = true := by
  induction bs generalizing a s with
  | nil => exact h
  | cons b bs ih => exact ih (State.memWrite_wf h a b) (a + 1)

/-- Loading a program keeps the canonical form. -/
theorem State.loadProgram_wf {s : State} (h : Memory.wf s.mem = true) (bytes : List Byte) :
    Memory.wf (s.loadProgram bytes).mem = true := by
  unfold State.loadProgram
  split
  · exact h
  · exact State.memWriteAll_wf h _ bytes

/-- Placing an instruction for the next fetch keeps the canonical form. -/
theorem State.withFetchWord_wf {s : State} (h : Memory.wf s.mem = true) (nbits w : Nat) :
    Memory.wf (s.withFetchWord nbits w).mem = true :=
  State.memWriteAll_wf (by exact h) _ _

/-- A byte of the address space reads as memory holds it (R36). -/
@[simp] theorem State.memRead1_of_lt (s : State) {a : Nat} (h : a < 4096) :
    s.memRead1 a = some (Memory.read s.mem a) := if_pos h

/-- There is no byte from 0x1000 on (R36). -/
@[simp] theorem State.memRead1_of_ge (s : State) {a : Nat} (h : 4096 ≤ a) : s.memRead1 a = none :=
  if_neg (Nat.not_lt.mpr h)

/-- Reading looks at `mem` only. -/
theorem State.memRead1_congr {s t : State} (h : t.mem = s.mem) (a : Nat) :
    t.memRead1 a = s.memRead1 a := by
  rw [State.memRead1, State.memRead1, h]

/-- The fetch answers the big-endian word exactly up to 0xFFE (R37, R40). -/
theorem State.fetch_eq (s : State) :
    s.fetch = if s.pc.toNat ≤ 0xFFE then
      some (wordOfBytes (Memory.read s.mem s.pc.toNat) (Memory.read s.mem (s.pc.toNat + 1)))
      else none := by
  unfold State.fetch State.memRead2
  by_cases h : s.pc.toNat ≤ 0xFFE
  · rw [if_pos h, State.memRead1_of_lt s (a := s.pc.toNat) (by omega),
      State.memRead1_of_lt s (a := s.pc.toNat + 1) (by omega)]
  · rw [if_neg h, State.memRead1_of_ge s (a := s.pc.toNat + 1) (by omega)]
    split <;> simp_all

/-- What a run of writes within memory leaves: its bytes where they were put, all else as before (R44). -/
theorem State.memRead1_memWriteAll {s : State} (h : Memory.wf s.mem = true) {a : Nat} {bs : List Byte}
    (hfit : a + bs.length ≤ 4096) {k : Nat} (hk : k < 4096) :
    (s.memWriteAll a bs).memRead1 k =
      if hin : a ≤ k ∧ k < a + bs.length then some (bs[k - a]'(by omega)) else s.memRead1 k := by
  induction bs generalizing s a with
  | nil => rw [dif_neg (by simp)]; rfl
  | cons b bs ih =>
    simp only [List.length_cons] at hfit
    have hb : (s.memWrite a b).memRead1 k = if k = a then some b else s.memRead1 k := by
      rw [State.memWrite, if_pos (show a < 4096 by omega), State.memRead1_of_lt _ hk, State.memRead1_of_lt _ hk,
        Memory.read_insert h]
      split <;> rfl
    rw [State.memWriteAll, ih (State.memWrite_wf h a b) (by omega), hb]
    simp only [List.length_cons]
    split_ifs with x y y
    · simp [show k - a = (k - (a + 1)) + 1 by omega]
    · omega
    all_goals first | omega | rfl | (subst k; simp)

end Sys2Proof.Machine
end

