-- ==== Sys2Proof/Laws/Exec.lean ====
section
/-! SUPPORT. What the shared operations and the branching instructions can answer, said once: taking a
fault, an unrecognised word, `RETURN`, `CALL`, `DRAW`, and one step. -/

namespace Sys2Proof.Machine

open Sys2Proof

/-! ### Taking a fault (R113) -/

/-- A fault on a machine that has none leaves the latch at its code and nothing else changed. -/
theorem State.raise_of_clear {s : State} (h : s.fault = .clear) (r : FaultReport) :
    s.raise r = { s with fault := r.code } := by
  rw [State.raise, if_pos h]

/-- The latch keeps the first fault (R25, R115). -/
theorem State.raise_of_faulted {s : State} (h : s.fault ≠ .clear) (r : FaultReport) :
    s.raise r = s := by
  rw [State.raise, if_neg h]

/-- No fault leaves the code 0. -/
theorem FaultReport.code_ne_clear (r : FaultReport) : r.code ≠ .clear := by
  cases r <;> simp [FaultReport.code]

/-- A fault always leaves the latch set. -/
theorem State.raise_fault_ne_clear (s : State) (r : FaultReport) : (s.raise r).fault ≠ .clear := by
  rw [State.raise_fault]
  split
  · exact r.code_ne_clear
  · assumption

/-! ### Branching instructions -/

/-- An unrecognised word is a no-op on the lenient machine (R99). -/
theorem unrecognised_of_lenient {s : State} (h : s.params.strictUnimpl = false) (w : Word) :
    unrecognised w s = .next (s.advance 2) := by
  rw [unrecognised, h]; rfl

/-- An unrecognised word raises UnimplementedOpcode on the strict machine (R100). -/
theorem unrecognised_of_strict {s : State} (h : s.params.strictUnimpl = true) (w : Word) :
    unrecognised w s = .next (s.raise (.unimplementedOpcode s.pc w)) := by
  rw [unrecognised, h]; rfl

/-- `RETURN` on a stack with an entry pops it (R67). -/
theorem execRet_of_live {s : State} (h0 : s.sp.toNat ≠ 0) (h16 : s.sp.toNat ≤ 16) :
    execRet s = .next (s.dropTop.setPc (s.stack[s.sp.toNat - 1]'(by omega))) := by
  have hsp : s.sp ≠ 0 := fun h => h0 (by rw [h]; rfl)
  rw [execRet, if_neg hsp, State.stackEntry, Vector.getElem?_eq_getElem (by omega)]

/-- `RETURN` on an empty stack faults (R110). -/
theorem execRet_of_empty {s : State} (h : s.sp = 0) :
    execRet s = .next (s.raise (.stackUnderflow s.pc)) := if_pos h

/-- `RETURN` with `SP` above 16 has no entry to pop. -/
theorem execRet_of_absent {s : State} (h : 16 < s.sp.toNat) :
    execRet s = .fault (.stackEntryAbsent (s.sp.toNat - 1)) := by
  have hsp : s.sp ≠ 0 := fun h' => by rw [h'] at h; exact absurd h (by decide)
  rw [execRet, if_neg hsp, State.stackEntry, Vector.getElem?_eq_none (by omega)]

/-- `CALL` below capacity pushes and jumps (R69). -/
theorem execCall_of_room {s : State} (h : s.sp.toNat < 16) (nnn : Addr) :
    execCall nnn s = .next ((s.push (s.pc + 2)).setPc (zext16 nnn)) :=
  if_neg (Nat.not_le.mpr h)

/-- `CALL` at capacity faults (R109). -/
theorem execCall_of_full {s : State} (h : 16 ≤ s.sp.toNat) (nnn : Addr) :
    execCall nnn s = .next (s.raise (.stackOverflow s.pc)) := if_pos h

/-- The bounds test of `DRAW` in plain arithmetic (R41). -/
theorem State.spriteOutOfRange_iff (s : State) (n : Nibble) :
    s.spriteOutOfRange n = true ↔ n.toNat ≠ 0 ∧ 0x1000 < s.i.toNat + n.toNat := by
  rw [State.spriteOutOfRange, decide_eq_true_iff]; omega

/-- `DRAW` within bounds (R96). -/
theorem execDraw_of_inRange {s : State} {n : Nibble} (h : s.spriteOutOfRange n = false) (x y : Reg) :
    execDraw x y n s =
      .next (((s.setVF (drawRows (s.reg x) (s.reg y) 0 (s.spriteRows n) ⟨s.fb, false⟩).hit).setFb
        (drawRows (s.reg x) (s.reg y) 0 (s.spriteRows n) ⟨s.fb, false⟩).fb).advance 2) := by
  rw [execDraw, h]; rfl

/-- `DRAW` out of bounds faults before anything is written (R112). -/
theorem execDraw_of_outOfRange {s : State} {n : Nibble} (h : s.spriteOutOfRange n = true)
    (x y : Reg) : execDraw x y n s = .next (s.raise (.dataOutOfRange s.pc s.i n)) := if_pos h

/-! ### The frame buffer -/

/-- Toggling a cell changes that cell alone. -/
theorem FrameBuffer.cell_toggle (fb : FrameBuffer) (cx dx : Fin 64) (cy dy : Fin 32) :
    FrameBuffer.cell (FrameBuffer.toggle fb cx cy) dx dy =
      (FrameBuffer.cell fb dx dy ^^ (decide (dx = cx) && decide (dy = cy))) := by
  obtain ⟨cx, hcx⟩ := cx
  obtain ⟨dx, hdx⟩ := dx
  obtain ⟨cy, hcy⟩ := cy
  obtain ⟨dy, hdy⟩ := dy
  simp only [FrameBuffer.cell, FrameBuffer.toggle, Vector.getElem_set, Fin.mk.injEq]
  by_cases h1 : cx = dx
  · subst h1
    by_cases h2 : cy = dy
    · subst h2; simp
    · simp [h2, Ne.symm h2]
  · simp [h1, Ne.symm h1]

/-- Every cell of the blank buffer is false (R95). -/
@[simp] theorem FrameBuffer.cell_blank (cx : Fin 64) (cy : Fin 32) :
    FrameBuffer.cell FrameBuffer.blank cx cy = false := by
  simp [FrameBuffer.cell, FrameBuffer.blank]

/-- Two buffers with the same cells are the same. -/
theorem FrameBuffer.ext_cell {a b : FrameBuffer}
    (h : ∀ cx cy, FrameBuffer.cell a cx cy = FrameBuffer.cell b cx cy) : a = b := by
  apply Vector.ext
  intro cx hcx
  apply Vector.ext
  intro cy hcy
  exact h ⟨cx, hcx⟩ ⟨cy, hcy⟩

/-! ### One step (R51) -/

/-- A faulted machine does not move (R115). -/
theorem step_of_faulted {s : State} (h : s.fault ≠ .clear) : step s = .next s := if_pos h

/-- What a `Tick` on a machine without a fault answers. -/
theorem step_of_clear {s : State} (h : s.fault = .clear) :
    step s = match s.fetch with
      | none => .next (s.raise (.fetchOutOfRange s.pc))
      | some w => exec (decodeWord w) s :=
  if_neg (not_not_intro h)

/-- Everything a step that answers a next state can have done. -/
theorem step_next_cases {s t : State} (h : step s = .next t) :
    (s.fault ≠ .clear ∧ t = s) ∨
    (s.fault = .clear ∧ s.fetch = none ∧ t = { s with fault := .fetchOutOfRange }) ∨
    (s.fault = .clear ∧ ∃ w, s.fetch = some w ∧ exec (decodeWord w) s = .next t) := by
  by_cases hf : s.fault = .clear
  · rw [step_of_clear hf] at h
    cases hw : s.fetch with
    | none =>
      rw [hw] at h
      refine .inr (.inl ⟨hf, rfl, ?_⟩)
      rw [State.raise_of_clear hf] at h
      exact (Host.Outcome.next.inj h).symm
    | some w =>
      rw [hw] at h
      exact .inr (.inr ⟨hf, w, rfl, h⟩)
  · rw [step_of_faulted hf] at h
    exact .inl ⟨hf, (Host.Outcome.next.inj h).symm⟩

end Sys2Proof.Machine
end

