-- ==== Sys2Proof/Laws/Events.lean ====
section
/-! SUPPORT. Histories of events: what the last event of one adds to the state (R9) and to what has
happened since `Reset` (R139), and when a state is as fresh from reset. -/

namespace Sys2Proof.Machine

open Sys2Proof

/-! ### Lists of events -/

/-- Two histories in a row lead somewhere exactly if the first does and the second goes on from there. -/
theorem State.applyAll_append {es fs : List Event} {s u : State} :
    s.applyAll (es ++ fs) = .next u ↔
      ∃ t, s.applyAll es = .next t ∧ t.applyAll fs = .next u := by
  induction es generalizing s with
  | nil => simp [State.applyAll]
  | cons e es ih =>
    simp only [List.cons_append, State.applyAll]
    cases s.apply e with
    | next t => exact ih
    | fault r => simp
    | refused r => simp

/-- A history of one event is that event. -/
@[simp] theorem State.applyAll_single (e : Event) (s : State) : s.applyAll [e] = s.apply e := by
  rw [State.applyAll]
  cases s.apply e <;> rfl

/-! ### What has happened since `Reset` -/

@[simp] theorem sinceReset_nil : sinceReset [] = [] := rfl

/-- Nothing has happened since a `Reset` that has just occurred. -/
@[simp] theorem sinceReset_reset (es : List Event) : sinceReset (es ++ [.reset]) = [] := by
  simp [sinceReset]

/-- Any other event is added to what has happened. -/
theorem sinceReset_concat (es : List Event) {e : Event} (h : e ≠ .reset) :
    sinceReset (es ++ [e]) = sinceReset es ++ [e] := by
  simp [sinceReset, h]

/-- Where there is no `Reset`, all of it has happened since. -/
theorem sinceReset_of_no_reset {es : List Event} (h : Event.reset ∉ es) : sinceReset es = es := by
  induction es using List.reverseRecOn with
  | nil => rfl
  | append_singleton es e ih =>
    simp only [List.mem_append, List.mem_singleton, not_or] at h
    rw [sinceReset_concat es (Ne.symm h.2), ih h.1]

/-! ### The image an event loads -/

@[simp] theorem Event.loadedImage_reset : Event.loadedImage .reset = none := rfl
@[simp] theorem Event.loadedImage_tick : Event.loadedImage .tick = none := rfl
@[simp] theorem Event.loadedImage_updateTimers : Event.loadedImage .updateTimers = none := rfl
@[simp] theorem Event.loadedImage_keyWrite (k : Fin 16) (b : Bool) :
    Event.loadedImage (.keyWrite k b) = none := rfl

/-- A load succeeds exactly when the image fits (R44). -/
theorem loadResponse_ok_iff (bytes : List Byte) : loadResponse bytes = .ok ↔ bytes.length ≤ 3584 := by
  rw [loadResponse]
  split <;> simp_all

/-- A load of an image that fits counts as one, another does not (R44). -/
theorem Event.loadedImage_loadProgram (bytes : List Byte) :
    Event.loadedImage (.loadProgram bytes) = if bytes.length ≤ 3584 then some bytes else none := by
  simp only [Event.loadedImage, loadResponse_ok_iff]

end Sys2Proof.Machine
end

