-- ==== Sys2Proof/Laws/PerInstr.lean ====
section
/-! SUPPORT. Per-instruction facts about the syntax: the leading digit of each instruction's word is the
digit of its row (R53, R57, R59). -/

namespace Sys2Proof.Laws.EncodedDigit

open Sys2Proof

/-- The leading digit of a constructor's row in the opcode table. -/
def rowDigit : Instr → Nibble
  | .cls => 0x0
  | .ret => 0x0
  | .nop _ => 0x0
  | .jp _ => 0x1
  | .call _ => 0x2
  | .seImm _ _ => 0x3
  | .sneImm _ _ => 0x4
  | .seReg _ _ => 0x5
  | .ldImm _ _ => 0x6
  | .addImm _ _ => 0x7
  | .ldReg _ _ => 0x8
  | .orReg _ _ => 0x8
  | .andReg _ _ => 0x8
  | .xorReg _ _ => 0x8
  | .addReg _ _ => 0x8
  | .sub _ _ => 0x8
  | .shr _ _ => 0x8
  | .subn _ _ => 0x8
  | .shl _ _ => 0x8
  | .sneReg _ _ => 0x9
  | .ldI _ => 0xa
  | .jpV0 _ => 0xb
  | .rnd _ _ => 0xc
  | .draw _ _ _ => 0xd
  | .unrecognisedU5 _ _ _ => 0x5
  | .unrecognisedU8 _ _ _ => 0x8
  | .unrecognisedU9 _ _ _ => 0x9
  | .unrecognisedUE _ => 0xe
  | .unrecognisedUF _ => 0xf

/-- The word of an instruction carries the digit of its row. -/
def Statement (i : Instr) : Prop := fieldDigit (encode i) = rowDigit i

theorem cls : Statement (.cls) := by unfold Statement; decide
theorem ret : Statement (.ret) := by unfold Statement; decide
theorem nop (nnn : Addr) : Statement (.nop nnn) := fieldDigit_packNNN _ _
theorem jp (nnn : Addr) : Statement (.jp nnn) := fieldDigit_packNNN _ _
theorem call (nnn : Addr) : Statement (.call nnn) := fieldDigit_packNNN _ _
theorem seImm (x : Reg) (kk : Byte) : Statement (.seImm x kk) := fieldDigit_packXKK _ _ _
theorem sneImm (x : Reg) (kk : Byte) : Statement (.sneImm x kk) := fieldDigit_packXKK _ _ _
theorem seReg (x y : Reg) : Statement (.seReg x y) := fieldDigit_packXYN _ _ _ _
theorem ldImm (x : Reg) (kk : Byte) : Statement (.ldImm x kk) := fieldDigit_packXKK _ _ _
theorem addImm (x : Reg) (kk : Byte) : Statement (.addImm x kk) := fieldDigit_packXKK _ _ _
theorem ldReg (x y : Reg) : Statement (.ldReg x y) := fieldDigit_packXYN _ _ _ _
theorem orReg (x y : Reg) : Statement (.orReg x y) := fieldDigit_packXYN _ _ _ _
theorem andReg (x y : Reg) : Statement (.andReg x y) := fieldDigit_packXYN _ _ _ _
theorem xorReg (x y : Reg) : Statement (.xorReg x y) := fieldDigit_packXYN _ _ _ _
theorem addReg (x y : Reg) : Statement (.addReg x y) := fieldDigit_packXYN _ _ _ _
theorem sub (x y : Reg) : Statement (.sub x y) := fieldDigit_packXYN _ _ _ _
theorem shr (x y : Reg) : Statement (.shr x y) := fieldDigit_packXYN _ _ _ _
theorem subn (x y : Reg) : Statement (.subn x y) := fieldDigit_packXYN _ _ _ _
theorem shl (x y : Reg) : Statement (.shl x y) := fieldDigit_packXYN _ _ _ _
theorem sneReg (x y : Reg) : Statement (.sneReg x y) := fieldDigit_packXYN _ _ _ _
theorem ldI (nnn : Addr) : Statement (.ldI nnn) := fieldDigit_packNNN _ _
theorem jpV0 (nnn : Addr) : Statement (.jpV0 nnn) := fieldDigit_packNNN _ _
theorem rnd (x : Reg) (kk : Byte) : Statement (.rnd x kk) := fieldDigit_packXKK _ _ _
theorem draw (x y : Reg) (n : Nibble) : Statement (.draw x y n) := fieldDigit_packXYN _ _ _ _
theorem unrecognisedU5 (x y : Reg) (n : Nibble) : Statement (.unrecognisedU5 x y n) := fieldDigit_packXYN _ _ _ _
theorem unrecognisedU8 (x y : Reg) (n : Nibble) : Statement (.unrecognisedU8 x y n) := fieldDigit_packXYN _ _ _ _
theorem unrecognisedU9 (x y : Reg) (n : Nibble) : Statement (.unrecognisedU9 x y n) := fieldDigit_packXYN _ _ _ _
theorem unrecognisedUE (nnn : Addr) : Statement (.unrecognisedUE nnn) := fieldDigit_packNNN _ _
theorem unrecognisedUF (nnn : Addr) : Statement (.unrecognisedUF nnn) := fieldDigit_packNNN _ _

end Sys2Proof.Laws.EncodedDigit
end

