-- ==== Sys2Proof/Tests/Slice0.lean ====
section
/-! SUPPORT. The model's own tests. Expected results are the worked examples and vectors of
spec/95_test_vectors.md (named in each test's comment) and the encodings of 30_encoding.md. -/

namespace Sys2Proof.Tests

open Sys2Proof Sys2Proof.Machine

/-! ### WellFormed: an ill-formed term for each check -/

theorem test_wf_nop_is_not_cls : Instr.wellFormed (.nop 0x0E0) = false := by decide
theorem test_wf_nop_is_not_ret : Instr.wellFormed (.nop 0x0EE) = false := by decide
theorem test_wf_u5_has_n : Instr.wellFormed (.unrecognisedU5 1 2 0) = false := by decide
theorem test_wf_u8_low_n : Instr.wellFormed (.unrecognisedU8 1 2 7) = false := by decide
theorem test_wf_u8_not_shl : Instr.wellFormed (.unrecognisedU8 1 2 0xE) = false := by decide
theorem test_wf_u9_has_n : Instr.wellFormed (.unrecognisedU9 1 2 0) = false := by decide

/-! ### Decoding: one word per constructor, written out from the encoding of its rule -/

theorem test_decode_cls : decodeWord 0b0000000011100000 = .cls := by decide
theorem test_decode_ret : decodeWord 0b0000000011101110 = .ret := by decide
theorem test_decode_nop : decodeWord 0b0000000011100001 = .nop 0x0E1 := by decide
theorem test_decode_jp : decodeWord 0b0001101010111100 = .jp 0xABC := by decide
theorem test_decode_call : decodeWord 0b0010001101000101 = .call 0x345 := by decide
theorem test_decode_seImm : decodeWord 0b0011000100000101 = .seImm 1 0x05 := by decide
theorem test_decode_sneImm : decodeWord 0b0100001000010001 = .sneImm 2 0x11 := by decide
theorem test_decode_seReg : decodeWord 0b0101000100100000 = .seReg 1 2 := by decide
theorem test_decode_ldImm : decodeWord 0b0110101011111111 = .ldImm 10 0xFF := by decide
theorem test_decode_addImm : decodeWord 0b0111000011111111 = .addImm 0 0xFF := by decide
theorem test_decode_ldReg : decodeWord 0b1000001100010000 = .ldReg 3 1 := by decide
theorem test_decode_orReg : decodeWord 0b1000000100100001 = .orReg 1 2 := by decide
theorem test_decode_andReg : decodeWord 0b1000000100100010 = .andReg 1 2 := by decide
theorem test_decode_xorReg : decodeWord 0b1000000100100011 = .xorReg 1 2 := by decide
theorem test_decode_addReg : decodeWord 0b1000001110100100 = .addReg 3 10 := by decide
theorem test_decode_sub : decodeWord 0b1000001000110101 = .sub 2 3 := by decide
theorem test_decode_shr : decodeWord 0b1000001100100110 = .shr 3 2 := by decide
theorem test_decode_subn : decodeWord 0b1000001000110111 = .subn 2 3 := by decide
theorem test_decode_shl : decodeWord 0b1000001000001110 = .shl 2 0 := by decide
theorem test_decode_sneReg : decodeWord 0b1001001000110000 = .sneReg 2 3 := by decide
theorem test_decode_ldI : decodeWord 0b1010001000000000 = .ldI 0x200 := by decide
theorem test_decode_jpV0 : decodeWord 0b1011001000000100 = .jpV0 0x204 := by decide
theorem test_decode_rnd : decodeWord 0b1100010000001111 = .rnd 4 0x0F := by decide
theorem test_decode_draw : decodeWord 0b1101000000010010 = .draw 0 1 2 := by decide
theorem test_decode_u5 : decodeWord 0b0101000100100001 = .unrecognisedU5 1 2 1 := by decide
theorem test_decode_u8 : decodeWord 0b1000000100101000 = .unrecognisedU8 1 2 8 := by decide
theorem test_decode_u9 : decodeWord 0b1001000100100001 = .unrecognisedU9 1 2 1 := by decide
theorem test_decode_ue : decodeWord 0b1110000110011110 = .unrecognisedUE 0x19E := by decide
theorem test_decode_uf : decodeWord 0b1111000001010101 = .unrecognisedUF 0x055 := by decide

/-- R37, R52: big-endian, two bytes, the rest handed on. -/
theorem test_decode_bytes : decode [0x60, 0x05, 0xAA] = .ok (.ldImm 0 5, [0xAA]) := by decide
theorem test_decode_one_byte : decode [0x60] = .error .secondByteMissing := by decide
theorem test_decode_no_byte : decode [] = .error .noBytes := by decide
theorem test_table_word : decodeTableWord 16 0xD012 = some (.draw 0 1 2) := by decide

/-- R64's examples, the other way. -/
theorem test_encode_examples :
    encodeBytes (.ldImm 0 5) = [0x60, 0x05] ∧ encodeBytes (.ldI 0x200) = [0xA2, 0x00] ∧
    encode (.addReg 3 10) = 0x83A4 ∧ encode (.draw 0 1 2) = 0xD012 ∧
    encode (.jpV0 0x204) = 0xB204 ∧ encode (.shr 3 0) = 0x8306 := by decide

/-! ### One step on a small state -/

/-- The start state of spec/95_test_vectors.md: reset, with a word at 0x200. -/
def at200 (w : Word) : State := State.reset.withFetchWord 16 w.toNat

/-- A field of the next state, if there is one. -/
def seen {α : Type} (a : Answer) (f : State → α) : Option α :=
  match a with
  | .next t => some (f t)
  | .fault _ => none
  | .refused _ => none

/-- `V[x]`, `V[y]` and `VF` set. -/
def with2 (x : Reg) (a : Byte) (y : Reg) (b : Byte) (flag : Byte) (s : State) : State :=
  ((s.setReg vf flag).setReg x a).setReg y b

/-- The bytes at an address, `I` pointing to them. -/
def sprite (addr : Word) (bytes : List Byte) (s : State) : State :=
  (s.setI addr).memWriteAll addr.toNat bytes

/-- `SP` and one stack entry set. -/
def stacked (sp : Byte) (k : Nat) (w : Word) (s : State) : State :=
  { s with sp := sp, stack := s.stack.setIfInBounds k w }

/-- The cells of a list all set. -/
def cellsSet (cells : List (Fin 64 × Fin 32)) (s : State) : State :=
  { s with fb := cells.foldl (fun fb c => FrameBuffer.toggle fb c.1 c.2) s.fb }

/-- V-C3: `0x00E1` is NOP. -/
theorem test_nop : seen (step (at200 0x00E1)) (fun t => (t.pc, t.fault)) = some (0x202, .clear) := by
  decide

/-- V-C4. -/
theorem test_jp : seen (step (at200 0x1ABC)) (fun t => t.pc) = some 0xABC := by decide

/-- V-C8: the last free entry. -/
theorem test_call :
    seen (step (stacked 15 0 0 (at200 0x2345))) (fun t => (t.pc, t.sp, t.stack[15])) =
      some (0x345, 16, 0x202) := by decide

/-- V-C9. -/
theorem test_call_overflow :
    seen (step (stacked 16 0 0 (at200 0x2345))) (fun t => (t.fault.number, t.pc, t.sp)) =
      some (3, 0x200, 16) := by decide

/-- V-C10: the popped entry keeps its value. -/
theorem test_ret :
    seen (step (stacked 1 0 0xABC (at200 0x00EE))) (fun t => (t.pc, t.sp, t.stack[0])) =
      some (0xABC, 0, 0xABC) := by decide

/-- V-C12. -/
theorem test_ret_underflow :
    seen (step (at200 0x00EE)) (fun t => (t.fault.number, t.pc, t.sp)) = some (4, 0x200, 0) := by
  decide

/-- V-C13, V-C14. -/
theorem test_seImm :
    seen (step ((at200 0x3105).setReg 1 5)) (fun t => t.pc) = some 0x204 ∧
    seen (step ((at200 0x3105).setReg 1 6)) (fun t => t.pc) = some 0x202 := by decide

/-- V-C15, V-C16. -/
theorem test_sneImm :
    seen (step ((at200 0x4105).setReg 1 5)) (fun t => t.pc) = some 0x202 ∧
    seen (step ((at200 0x4105).setReg 1 6)) (fun t => t.pc) = some 0x204 := by decide

/-- V-C17, V-C18. -/
theorem test_seReg :
    seen (step (with2 1 1 2 1 0 (at200 0x5120))) (fun t => t.pc) = some 0x204 ∧
    seen (step (with2 1 1 2 2 0 (at200 0x5120))) (fun t => t.pc) = some 0x202 := by decide

/-- V-C20, V-C21. -/
theorem test_sneReg :
    seen (step (with2 1 1 2 1 0 (at200 0x9120))) (fun t => t.pc) = some 0x202 ∧
    seen (step (with2 1 1 2 2 0 (at200 0x9120))) (fun t => t.pc) = some 0x204 := by decide

/-- V-C24: the target is not reduced modulo 4096. -/
theorem test_jpV0 : seen (step ((at200 0xBFFF).setReg 0 0xFF)) (fun t => t.pc) = some 0x10FE := by
  decide

/-- S1, the source's own example. -/
theorem test_ldImm : seen (step (at200 0x6005)) (fun t => (t.reg 0, t.pc)) = some (5, 0x202) := by
  decide

/-- V-A3: no carry is recorded. -/
theorem test_addImm :
    seen (step ((at200 0x7101).setReg 1 0xFF)) (fun t => (t.reg 1, t.reg 15)) = some (0, 0) := by
  decide

/-- V-A6. -/
theorem test_ldReg : seen (step ((at200 0x8310).setReg 1 0x2A)) (fun t => t.reg 3) = some 0x2A := by
  decide

/-- V-A7: `VF` is not reset. -/
theorem test_orReg :
    seen (step (with2 1 0xF0 2 0x0F 1 (at200 0x8121))) (fun t => (t.reg 1, t.reg 15)) =
      some (0xFF, 1) := by decide

/-- V-A8. -/
theorem test_andReg :
    seen (step (with2 1 0xFC 2 0x3F 1 (at200 0x8122))) (fun t => (t.reg 1, t.reg 15)) =
      some (0x3C, 1) := by decide

/-- V-A9. -/
theorem test_xorReg :
    seen (step (with2 1 0xFF 2 0x0F 1 (at200 0x8123))) (fun t => (t.reg 1, t.reg 15)) =
      some (0xF0, 1) := by decide

/-- V-A11b. -/
theorem test_addReg :
    seen (step (with2 1 0xFF 2 1 0 (at200 0x8124))) (fun t => (t.reg 1, t.reg 15)) =
      some (0, 1) := by decide

/-- V-A12: the carry is overwritten by the result; V-A13: the sum uses the old `VF`. -/
theorem test_addReg_vf :
    seen (step (with2 1 0x90 15 0x90 0 (at200 0x8F14))) (fun t => t.reg 15) = some 0x20 ∧
    seen (step (with2 1 0xFF 15 1 0 (at200 0x81F4))) (fun t => (t.reg 1, t.reg 15)) =
      some (0, 1) := by decide

/-- V-A15b. -/
theorem test_sub :
    seen (step (with2 1 3 2 5 0 (at200 0x8125))) (fun t => (t.reg 1, t.reg 15)) =
      some (0xFE, 0) := by decide

/-- V-A16b, V-A17b: the result statement sees the new flag. -/
theorem test_sub_vf :
    seen (step (with2 1 5 15 3 0 (at200 0x8F15))) (fun t => t.reg 15) = some 0xFB ∧
    seen (step (with2 1 5 15 2 0 (at200 0x81F5))) (fun t => (t.reg 1, t.reg 15)) =
      some (4, 1) := by decide

/-- V-A19d: `y` is ignored; V-A20: `SHR VF` ends 0. -/
theorem test_shr :
    seen (step (with2 1 4 2 0xFF 1 (at200 0x8126))) (fun t => (t.reg 1, t.reg 2, t.reg 15)) =
      some (2, 0xFF, 0) ∧
    seen (step ((at200 0x8F06).setReg 15 3)) (fun t => t.reg 15) = some 0 := by decide

/-- V-A21b. -/
theorem test_subn :
    seen (step (with2 1 5 2 3 1 (at200 0x8127))) (fun t => (t.reg 1, t.reg 15)) =
      some (0xFE, 0) := by decide

/-- V-A22, V-A23. -/
theorem test_subn_vf :
    seen (step (with2 1 5 15 3 0 (at200 0x8F17))) (fun t => t.reg 15) = some 4 ∧
    seen (step (with2 1 5 15 9 0 (at200 0x81F7))) (fun t => (t.reg 1, t.reg 15)) =
      some (0xFC, 1) := by decide

/-- V-A25c, V-A26. -/
theorem test_shl :
    seen (step ((at200 0x810E).setReg 1 0xFF)) (fun t => (t.reg 1, t.reg 15)) = some (0xFE, 1) ∧
    seen (step ((at200 0x8F0E).setReg 15 0x81)) (fun t => t.reg 15) = some 2 := by decide

/-- D7: `latched` reads the operands of before the instruction (V-A17's operands give 5 - 9). -/
theorem test_sub_latched :
    seen (step { with2 1 5 15 9 0 (at200 0x81F5) with params := ⟨false, .latched⟩ })
      (fun t => (t.reg 1, t.reg 15)) = some (0xFC, 0) := by decide

/-- V-A27b. -/
theorem test_ldI : seen (step ((at200 0xAFFF).setI 0x200)) (fun t => (t.i, t.pc)) = some (0xFFF, 0x202) := by
  decide

/-- V-A28c: the mask 0 gives 0 whatever is drawn; the draw is consumed. -/
theorem test_rnd (b : Byte) :
    (exec (.rnd 4 0) (State.reset.setReg 4 b)) =
      .next ((((State.reset.setReg 4 b).consumeDraw).setReg 4 (Config.randomByte 0 &&& 0)).advance 2) :=
  rfl

/-- V-D1. -/
theorem test_cls :
    seen (step (cellsSet [(1, 1), (63, 31)] ((at200 0x00E0).setReg 15 1)))
      (fun t => (t.cell 1 1, t.cell 63 31, t.reg 15, t.pc)) = some (false, false, 1, 0x202) := by
  decide

/-- V-D15, the example of R96: both edges wrap. -/
theorem test_draw_wraps :
    seen (step (sprite 0x212 [0xF0, 0x81] (with2 0 62 1 31 0 (at200 0xD012))))
      (fun t => (t.fb, t.reg 15)) =
    some ((cellsSet [(62, 31), (63, 31), (0, 31), (1, 31), (62, 0), (5, 0)] State.reset).fb, 0) := by
  decide

/-- V-D12: the coordinates come from the old `VF`, and the collision is recorded; V-D10: nothing is
written when the sprite leaves memory. -/
theorem test_draw_vf_and_bounds :
    seen (step (cellsSet [(3, 3)] (sprite 0x300 [0xC0] ((at200 0xDFF1).setReg 15 3))))
      (fun t => (t.cell 3 3, t.cell 4 3, t.reg 15)) = some (false, true, 1) ∧
    seen (step (((at200 0xD01F).setReg 15 7).setI 0xFF2))
      (fun t => (t.fault.number, t.reg 15, t.pc)) = some (6, 7, 0x200) := by decide

/-- V-U1 to V-U3. -/
theorem test_unrecognised_digits :
    seen (step (with2 1 1 2 1 0 (at200 0x5121))) (fun t => t.pc) = some 0x202 ∧
    seen (step (with2 1 3 2 4 0 (at200 0x8128))) (fun t => (t.pc, t.reg 15)) = some (0x202, 0) ∧
    seen (step (with2 1 1 2 2 0 (at200 0x9121))) (fun t => t.pc) = some 0x202 := by decide

/-- V-U4, V-U6; V-U7: the strict setting. -/
theorem test_unrecognised_families :
    seen (step ((at200 0xE19E).keyWrite 3 true)) (fun t => t.pc) = some 0x202 ∧
    seen (step ((at200 0xF033).setI 0x300)) (fun t => (t.pc, t.memRead1 0x300)) =
      some (0x202, some 0) ∧
    seen (step { at200 0xF107 with params := ⟨true, .sequential⟩ })
      (fun t => (t.fault.number, t.pc)) = some (2, 0x200) := by decide

/-- V-M1, second `Tick`. -/
theorem test_fetch_out_of_range :
    seen (step (State.reset.setPc 0x1000)) (fun t => (t.fault.number, t.pc)) = some (5, 0x1000) := by
  decide

/-- V-M2: an odd address; the last word of memory is fetched whole. -/
theorem test_fetch_odd :
    seen (step (((State.reset.memWrite 0xFFD 0x60).memWrite 0xFFE 1).setPc 0xFFD))
      (fun t => (t.reg 0, t.pc)) = some (1, 0xFFF) := by decide

/-- V-F1. -/
theorem test_faulted_tick :
    seen (step { at200 0x6005 with fault := .stackUnderflow })
      (fun t => (t.reg 0, t.pc, t.fault.number)) = some (0, 0x200, 4) := by decide

/-- S6: the image loaded by the host, first byte at 0x200. -/
theorem test_loadProgram :
    ((State.reset.loadProgram [0x22, 0x04, 0x00, 0x00, 0x00, 0xEE]).fetch = some 0x2204) ∧
    ((State.reset.loadProgram [0x22, 0x04, 0x00, 0x00, 0x00, 0xEE]).memRead1 0x205 = some 0xEE) := by
  decide

/-- V-M3, V-M4: 3585 bytes are too many, 3584 are not. -/
theorem test_load_bound :
    (State.reset.loadProgram (List.replicate 3585 0xAA)).fault = .loadError ∧
    loadResponse (List.replicate 3584 0xAA) = .ok := by
  constructor
  · rw [State.loadProgram, List.length_replicate]; rfl
  · rw [loadResponse, List.length_replicate]; rfl

/-- V-T1, V-T3, V-K1. -/
theorem test_timers_and_keys :
    (State.reset.updateTimers.dt = 0) ∧
    ({ State.reset with dt := 1, st := 0xFF }.updateTimers.dt = 0) ∧
    ({ State.reset with dt := 1, st := 0xFF }.updateTimers.st = 0xFE) ∧
    ((State.reset.keyWrite 10 true).key[10] = true) := by decide

/-- V-F2: `Reset` clears the latch. -/
theorem test_reset_event :
    ({ at200 0x6005 with fault := .stackOverflow, draws := 3 }).resetEvent =
      { State.reset with draws := 3 } := by decide

/-- The first record of program P2's trace. -/
theorem test_trace :
    (at200 0xA212).traceRecord = some ⟨0xA212, 0xA2, 0x12, 0x200, 0⟩ := by decide

/-- R133, R140: one load, before the first `Tick`. -/
theorem test_host_contract :
    hostContract .off [.reset, .loadProgram [0x60, 0x05], .updateTimers, .tick] = true ∧
    hostContract .off [.reset, .tick, .loadProgram [0x60, 0x05]] = false := by decide

/-! ### Witnesses: for every statement with hypotheses, states and operands that meet them, each clause
at a boundary. Named after the obligation. -/

/-- A machine built with other parameters. -/
def built (strict : Bool) (order : Config.AliasOrder) (s : State) : State :=
  { s with params := ⟨strict, order⟩ }

theorem witness_DecodeOfEncode :
    Instr.wellFormed (.nop 0xFFF) = true ∧ Instr.wellFormed (.unrecognisedU8 15 0 8) = true ∧
    Instr.wellFormed (.draw 15 15 15) = true := by decide

/-- `0x00E0` matches rows 0 and 2 of the table. -/
theorem witness_DecodeTakesFirstRow :
    0 < 2 ∧ 2 < 24 ∧
    (0x00E0 : Word) &&& (opcodeRows.getD 0 (0, 0)).1 = (opcodeRows.getD 0 (0, 0)).2 ∧
    (0x00E0 : Word) &&& (opcodeRows.getD 2 (0, 0)).1 = (opcodeRows.getD 2 (0, 0)).2 := by decide

/-- The four clauses at the edge of memory. -/
theorem witness_MemReadPrimitives :
    (State.reset.memWrite 0xFFF 7).memRead1 0xFFF = some 7 ∧
    (State.reset.memWrite 0xFFF 7).memRead1 0x1000 = none ∧
    (State.reset.memWrite 0xFFF 7).memRead2 0xFFE = some 7 ∧
    (State.reset.memWrite 0xFFF 7).memRead2 0xFFF = none := by decide

theorem witness_MemWriteOneByte :
    (Memory.wf (at200 0x6005).mem = true ∧ 0xFFF ≤ 0xFFF ∧
      ((at200 0x6005).memWrite 0xFFF 9).memRead1 0xFFF = some 9 ∧
      ((at200 0x6005).memWrite 0xFFF 9).memRead1 0x200 = some 0x60) ∧
    (Memory.wf State.reset.mem = true ∧ Event.loadProgram [1] ≠ .reset ∧
      State.reset.apply (.loadProgram [1]) = .next (State.reset.loadProgram [1]) ∧
      (State.reset.loadProgram [1]).memRead1 0x200 ≠ State.reset.memRead1 0x200) :=
  ⟨by decide, by decide, by decide, rfl, by decide⟩

theorem witness_MemoryEqualIfReadAlike :
    Memory.wf (at200 0x6005).mem = true ∧ Memory.wf (Memory.insert [(0x201, 5)] 0x200 0x60) = true ∧
    (∀ a, Memory.read (at200 0x6005).mem a = Memory.read (Memory.insert [(0x201, 5)] 0x200 0x60) a) :=
  ⟨by decide, by decide, fun _ => rfl⟩

/-- The two clauses at the bound: 3584 bytes and 3585 bytes. -/
theorem witness_LoadProgramEffect :
    Memory.wf State.reset.mem = true ∧ ¬ 3584 < (List.replicate 3584 (0xAA : Byte)).length ∧
    (List.replicate 3584 (0xAA : Byte)).length ≤ 3584 ∧
    3584 < (List.replicate 3585 (0xAA : Byte)).length := by
  rw [List.length_replicate, List.length_replicate]; decide

/-- The three clauses: a set latch, the first `PC` that is out of range, the last that is in range. -/
theorem witness_TickProcedure :
    ({ at200 0x6005 with fault := .loadError }).fault ≠ .clear ∧
    ((at200 0x6005).setPc 0xFFF).fault = .clear ∧ 0xFFE < ((at200 0x6005).setPc 0xFFF).pc.toNat ∧
    ((at200 0x6005).setPc 0xFFE).fault = .clear ∧ ((at200 0x6005).setPc 0xFFE).pc.toNat ≤ 0xFFE := by
  decide

theorem witness_StepRunsDecodedInstruction :
    (at200 0x6005).fault = .clear ∧ Instr.wellFormed (.ldImm 0 5) = true ∧
    (at200 0x6005).memRead1 (at200 0x6005).pc.toNat = some 0x60 ∧
    (at200 0x6005).memRead1 ((at200 0x6005).pc.toNat + 1) = some 0x05 ∧
    decode [0x60, 0x05] = .ok (.ldImm 0 5, []) := by decide

/-- The fetch at 0xFFE answers; at 0xFFF it does not, and the latch takes code 5. -/
theorem witness_FetchBounds :
    (State.reset.setPc 0xFFE).fetch = some 0 ∧ (State.reset.setPc 0xFFF).fetch = none ∧
    (State.reset.setPc 0xFFF).fault = .clear ∧
    seen (step (State.reset.setPc 0xFFF)) (fun t => t.fault.number) = some 5 := by decide

theorem witness_LatchIsSticky :
    ({ at200 0x6005 with fault := .stackOverflow }).fault ≠ .clear ∧
    Event.keyWrite 15 true ≠ .reset ∧
    ({ at200 0x6005 with fault := .stackOverflow }).apply (.keyWrite 15 true) =
      .next (({ at200 0x6005 with fault := .stackOverflow } : State).keyWrite 15 true) :=
  ⟨by decide, by decide, rfl⟩

theorem witness_FaultIsPrecise :
    Event.tick ≠ .reset ∧
    (at200 0x00EE).apply .tick = .next ((at200 0x00EE).raise (.stackUnderflow 0x200)) ∧
    ((at200 0x00EE).raise (.stackUnderflow 0x200)).fault ≠ (at200 0x00EE).fault :=
  ⟨by decide, rfl, by decide⟩

theorem witness_TickFaultIsTheTables :
    (stacked 16 0 0 (at200 0x2345)).fault = .clear ∧
    step (stacked 16 0 0 (at200 0x2345)) =
      .next ((stacked 16 0 0 (at200 0x2345)).raise (.stackOverflow 0x200)) ∧
    (stacked 16 0 0 (at200 0x2345)).tickFault = .stackOverflow :=
  ⟨by decide, rfl, by decide⟩

theorem witness_TickYieldsStateOrFault :
    (stacked 16 15 0xABC (at200 0x00EE)).sp.toNat ≤ 16 ∧
    seen (step (stacked 16 15 0xABC (at200 0x00EE))) (fun t => t.pc) = some 0xABC ∧
    State.reset.sp.toNat ≤ 16 ∧
    seen (step (at200 0x00EE)) (fun t => decide (t.fault ≠ .clear)) = some true := by decide

/-- The clauses of the empty stack, and of the first and the last entry. -/
theorem witness_ReturnPopsOrUnderflows :
    State.reset.sp.toNat = 0 ∧
    0 < 16 ∧ (stacked 1 0 0x234 State.reset).sp.toNat = 0 + 1 ∧
    15 < 16 ∧ (stacked 16 15 0xABC State.reset).sp.toNat = 15 + 1 := by decide

theorem witness_ReturnWithoutEntryStops : 16 < (stacked 17 0 0 State.reset).sp.toNat := by decide

/-- The clauses at 15 (room) and 16 (full). -/
theorem witness_CallPushesOrOverflows :
    (stacked 15 0 0 State.reset).sp.toNat < 16 ∧ 16 ≤ (stacked 16 0 0 State.reset).sp.toNat := by
  decide

theorem witness_CallThenReturnResumes : (stacked 15 0 0 State.reset).sp.toNat < 16 := by decide

/-- Both conditions, with a register and with an immediate operand, and with `x = y`. -/
theorem witness_SkipsAdvance :
    (State.reset.setReg 15 0xFF).reg 15 = 0xFF ∧ (State.reset.setReg 15 0xFF).reg 15 ≠ 0xFE ∧
    (State.reset.setReg 15 0xFF).reg 15 = (State.reset.setReg 15 0xFF).reg 15 ∧
    (State.reset.setReg 15 0xFF).reg 15 ≠ (State.reset.setReg 15 0xFF).reg 0 := by decide

/-- An instruction that completes (`PC` wraps) and one that faults. -/
theorem witness_PcChangesInThreeWays :
    (State.reset.setPc 0xFFFE).fault = .clear ∧
    exec (.nop 0) (State.reset.setPc 0xFFFE) = .next ((State.reset.setPc 0xFFFE).advance 2) ∧
    ((State.reset.setPc 0xFFFE).advance 2).fault = .clear ∧
    State.reset.fault = .clear ∧
    exec .ret State.reset = .next (State.reset.raise (.stackUnderflow 0x200)) ∧
    (State.reset.raise (.stackUnderflow 0x200)).fault ≠ .clear :=
  ⟨by decide, rfl, by decide, by decide, rfl, by decide⟩

/-- Both kinds of self-jump: `0x1200` and `0xB200` with `V0 = 0`. -/
theorem witness_EndedRunStaysPut : (at200 0x1200).Ended ∧ (at200 0xB200).Ended :=
  ⟨⟨by unfold State.NoFault; decide, 0x1200, by decide, .inl ⟨0x200, by decide, by decide⟩⟩,
    ⟨by unfold State.NoFault; decide, 0xB200, by decide, .inr ⟨0x200, by decide, by decide⟩⟩⟩

/-- Sums 255 (no carry) and 256 (carry), with `x` not `VF`. -/
theorem witness_AddRegistersCarries :
    (1 : Reg) ≠ 15 ∧
    seen (exec (.addReg 1 2) (with2 1 0xFE 2 1 0 State.reset)) (fun t => (t.reg 1, t.reg 15)) =
      some (0xFF, 0) ∧
    seen (exec (.addReg 1 2) (with2 1 0xFF 2 1 0 State.reset)) (fun t => (t.reg 1, t.reg 15)) =
      some (0, 1) := by decide

/-- The sequential order, the flag's value at equality, and each clause on `x` and `y`. -/
theorem witness_SubtractSequential :
    (with2 1 5 2 5 0 State.reset).params.vfAliasOrder = .sequential ∧
    1 = (if ((with2 1 5 2 5 0 State.reset).reg 2).toNat ≤ ((with2 1 5 2 5 0 State.reset).reg 1).toNat
      then 1 else 0) ∧
    ((1 : Reg) ≠ 15 ∧ (2 : Reg) ≠ 15) ∧ ((15 : Reg) = 15 ∧ (2 : Reg) ≠ 15) ∧
    ((1 : Reg) ≠ 15 ∧ (15 : Reg) = 15) ∧
    seen (exec (.sub 15 15) (State.reset.setReg 15 9)) (fun t => t.reg 15) = some 0 := by decide

/-- The same for the reversed subtraction, at equality and one below. -/
theorem witness_SubtractReversedSequential :
    (with2 1 6 2 5 0 State.reset).params.vfAliasOrder = .sequential ∧
    0 = (if ((with2 1 6 2 5 0 State.reset).reg 1).toNat ≤ ((with2 1 6 2 5 0 State.reset).reg 2).toNat
      then 1 else 0) ∧
    ((1 : Reg) ≠ 15 ∧ (2 : Reg) ≠ 15) ∧ ((15 : Reg) = 15 ∧ (2 : Reg) ≠ 15) ∧
    ((1 : Reg) ≠ 15 ∧ (15 : Reg) = 15) ∧
    seen (exec (.subn 15 15) (State.reset.setReg 15 9)) (fun t => t.reg 15) = some 0 := by decide

/-- The sequential order, and `x` both below 15 and 15. -/
theorem witness_ShiftsSequential :
    (State.reset.setReg 14 0xFF).params.vfAliasOrder = .sequential ∧ (14 : Reg) ≠ 15 ∧
    seen (exec (.shr 14 0) (State.reset.setReg 14 0xFF)) (fun t => (t.reg 14, t.reg 15)) =
      some (0x7F, 1) ∧
    seen (exec (.shl 14 0) (State.reset.setReg 14 0x7F)) (fun t => (t.reg 14, t.reg 15)) =
      some (0xFE, 0) := by decide

theorem witness_LatchedResults :
    (built false .latched State.reset).params.vfAliasOrder = .latched := by decide

/-- A flag writer and a plain destination that change `VF`. -/
theorem witness_FlagWrittenOnlyByItsWriters :
    exec (.ldImm 15 1) State.reset = .next ((State.reset.setReg 15 1).advance 2) ∧
    ((State.reset.setReg 15 1).advance 2).reg 15 ≠ State.reset.reg 15 ∧
    seen (exec (.sub 1 2) State.reset) (fun t => decide (t.reg 15 ≠ State.reset.reg 15)) =
      some true :=
  ⟨rfl, by decide, by decide⟩

/-- The last byte at 0xFFF; and `n = 0`, which reads nothing wherever `I` stands. -/
theorem witness_DrawIsXorOfSprite :
    (State.reset.setI 0xFF1).SpriteInRange 15 ∧ (State.reset.setI 0xFFFF).SpriteInRange 0 := by
  unfold State.SpriteInRange; decide

/-- The last byte at 0x1000, for the longest and the shortest sprite. -/
theorem witness_DrawOutOfRangeFaults :
    (1 ≤ (15 : Nibble).toNat ∧ 0xFFF < (State.reset.setI 0xFF2).i.toNat + (15 : Nibble).toNat - 1) ∧
    (1 ≤ (1 : Nibble).toNat ∧ 0xFFF < (State.reset.setI 0x1000).i.toNat + (1 : Nibble).toNat - 1) := by
  decide

theorem witness_DrawTwiceRestores :
    (0 : Reg) ≠ 15 ∧ (14 : Reg) ≠ 15 ∧ (State.reset.setI 0xFFF).SpriteInRange 1 := by
  unfold State.SpriteInRange; decide

theorem witness_UnrecognisedIsNoOp :
    State.reset.params.strictUnimpl = false ∧
    Instr.unrecognisedUF 0x107 ∈ [Instr.unrecognisedU5 1 2 3, .unrecognisedU8 1 2 8,
      .unrecognisedU9 1 2 3, .unrecognisedUE 0x107, .unrecognisedUF 0x107] := by decide

theorem witness_UnrecognisedStrictFaults :
    (built true .sequential State.reset).params.strictUnimpl = true ∧
    Instr.unrecognisedU8 1 2 8 ∈ [Instr.unrecognisedU5 1 2 8, .unrecognisedU8 1 2 8,
      .unrecognisedU9 1 2 8, .unrecognisedUE 0x107, .unrecognisedUF 0x107] ∧
    (State.reset.params.strictUnimpl = false ∧ State.reset.fault = .clear ∧
      seen (exec (.unrecognisedU8 1 2 8) State.reset) (fun t => t.fault.number) = some 0) ∧
    (Instr.draw 0 1 2).row < 24 := by decide

/-- Both clauses: a `Tick` that runs, and another event that is neither a reset nor a load. -/
theorem witness_TickLeavesTimersKeysMemory :
    step (at200 0x6005) = .next (((at200 0x6005).setReg 0 5).advance 2) ∧
    Event.updateTimers ≠ .reset ∧ (∀ bytes, Event.updateTimers ≠ .loadProgram bytes) ∧
    State.reset.apply .updateTimers = .next State.reset.updateTimers :=
  ⟨rfl, by decide, fun _ => Event.noConfusion, rfl⟩

/-- Each clause: `I`, `SP` and the stack, the frame buffer, a register, a draw. -/
theorem witness_EachElementHasItsWriters :
    seen (exec (.ldI 1) State.reset) (fun t => decide (t.i ≠ State.reset.i)) = some true ∧
    seen (exec (.call 1) State.reset) (fun t => decide (t.sp ≠ State.reset.sp)) = some true ∧
    seen (exec (.call 1) State.reset) (fun t => decide (t.stack ≠ State.reset.stack)) = some true ∧
    seen (exec .cls (cellsSet [(0, 0)] State.reset)) (fun t => t.cell 0 0) = some false ∧
    seen (exec (.ldImm 3 1) State.reset) (fun t => decide (t.reg 3 ≠ State.reset.reg 3)) = some true ∧
    seen (exec (.rnd 0 0) State.reset) (fun t => decide (t.draws ≠ State.reset.draws)) = some true := by
  decide

/-- The invariant at the bound of `SP`, and an event from there. -/
theorem witness_EventsKeepInv :
    (stacked 16 0 0 (at200 0x2345)).Inv ∧
    (stacked 16 0 0 (at200 0x2345)).apply .updateTimers =
      .next (stacked 16 0 0 (at200 0x2345)).updateTimers :=
  ⟨⟨by decide, by decide⟩, rfl⟩

/-- The shape at the bounds of `I` and `PC`, and an event from there. -/
theorem witness_EventsKeepReachedShape :
    ((State.reset.setI 0xFFF).setPc 0x10FE).ReachedShape ∧
    ((State.reset.setI 0xFFF).setPc 0x10FE).apply .tick =
      .next (((State.reset.setI 0xFFF).setPc 0x10FE).raise (.fetchOutOfRange 0x10FE)) :=
  ⟨⟨by decide, by decide, by decide, rfl, rfl⟩, rfl⟩

theorem witness_ResultIndependentOfTimersAndKeys :
    ∀ e ∈ [Event.tick, .updateTimers, .keyWrite 15 true, .tick], e.isRunning = true := by decide

/-- The case of R139 with R133: load, then a key, then timers; the premises of a launch hold. -/
theorem witness_LaunchedStateIsTheImage :
    ((State.reset.loadProgram [0x60, 0x05]).keyWrite 15 true).updateTimers.Launched [0x60, 0x05] :=
  ⟨State.reset, [.loadProgram [0x60, 0x05], .keyWrite 15 true, .updateTimers], rfl, rfl,
    by unfold Loaded; decide, by unfold State.NoFault; decide, by unfold NoTickYet; decide⟩

/-- `Loaded` goes on holding after a `Tick`, `NoTickYet` does not; a `Reset` starts both anew. -/
theorem test_launch_premises :
    Loaded [0x60] [.tick, .reset, .loadProgram [0x60], .keyWrite 0 true, .tick] ∧
    ¬ NoTickYet [.loadProgram [0x60], .tick] ∧ NoTickYet [.tick, .reset, .updateTimers] ∧
    ¬ Loaded [0x60] [.loadProgram [0x60], .reset] := by
  unfold Loaded NoTickYet; decide

/-- An image of the greatest length, with events of both kinds before and after it. -/
theorem witness_LoadLaunches :
    State.reset.FreshReset ∧ (List.replicate 3584 (0xAA : Byte)).length ≤ 3584 ∧
    (∀ e ∈ [Event.updateTimers, .keyWrite 0 true] ++ [Event.keyWrite 15 false, .updateTimers],
      e.isRunning = true ∧ e.isTick = false) :=
  ⟨rfl, by rw [List.length_replicate], by decide⟩

end Sys2Proof.Tests
end

section
/-! The two outcomes of a `Tick` (R10): what an instruction and a step can answer, and the latch that
stays set until `Reset` (R115). -/

namespace Sys2Proof.Machine

open Sys2Proof

/-! ### The next state or a fault (R10, R113) -/

/-- The answer is a next state: one with the latch of `s`, or `s` itself with a fault taken. -/
def StateOrFault (s : State) (a : Answer) : Prop :=
  ∃ t, a = .next t ∧ (t.fault = s.fault ∨ ∃ r, t = s.raise r)

theorem StateOrFault.of_fault_eq {s t : State} (h : t.fault = s.fault) : StateOrFault s (.next t) :=
  ⟨t, rfl, .inl h⟩

theorem StateOrFault.of_raise (s : State) (r : FaultReport) : StateOrFault s (.next (s.raise r)) :=
  ⟨s.raise r, rfl, .inr ⟨r, rfl⟩⟩

/-- Taking a fault leaves the latch as it was, or changes it alone (R113, R115). -/
theorem State.raise_latch_cases (s : State) (r : FaultReport) :
    (s.raise r).fault = s.fault ∨
      (s.fault = .clear ∧ s.raise r = { s with fault := (s.raise r).fault }) := by
  by_cases h : s.fault = .clear
  · exact .inr ⟨h, rfl⟩
  · exact .inl (by rw [State.raise_of_faulted h])

/-! ### What each branching instruction answers -/

theorem execRet_stateOrFault {s : State} (h16 : s.sp.toNat ≤ 16) : StateOrFault s (execRet s) := by
  by_cases h0 : s.sp = 0
  · rw [execRet_of_empty h0]
    exact .of_raise s _
  · have hlive : s.sp.toNat ≠ 0 := fun h => h0 (BitVec.eq_of_toNat_eq h)
    rw [execRet_of_live hlive h16]
    exact .of_fault_eq rfl

theorem execCall_stateOrFault (nnn : Addr) (s : State) : StateOrFault s (execCall nnn s) := by
  rcases Nat.lt_or_ge s.sp.toNat 16 with hroom | hfull
  · rw [execCall_of_room hroom]
    exact .of_fault_eq rfl
  · rw [execCall_of_full hfull]
    exact .of_raise s _

theorem execDraw_stateOrFault (x y : Reg) (n : Nibble) (s : State) :
    StateOrFault s (execDraw x y n s) := by
  cases h : s.spriteOutOfRange n with
  | false =>
    rw [execDraw_of_inRange h]
    exact .of_fault_eq rfl
  | true =>
    rw [execDraw_of_outOfRange h]
    exact .of_raise s _

theorem unrecognised_stateOrFault (w : Word) (s : State) : StateOrFault s (unrecognised w s) := by
  cases h : s.params.strictUnimpl with
  | false =>
    rw [unrecognised_of_lenient h]
    exact .of_fault_eq rfl
  | true =>
    rw [unrecognised_of_strict h]
    exact .of_raise s _

/-! ### Every instruction, and one step -/

/-- `RETURN` with no entry to pop is the one stop; every other instruction either completes with the
latch kept, or takes a fault. -/
theorem exec_stateOrFault (i : Instr) (s : State) :
    StateOrFault s (exec i s) ∨ (i = .ret ∧ 16 < s.sp.toNat) := by
  cases i with
  | ret =>
    rcases Nat.lt_or_ge 16 s.sp.toNat with habsent | h16
    · exact .inr ⟨rfl, habsent⟩
    · exact .inl (execRet_stateOrFault h16)
  | call nnn => exact .inl (execCall_stateOrFault nnn s)
  | draw x y n => exact .inl (execDraw_stateOrFault x y n s)
  | unrecognisedU5 | unrecognisedU8 | unrecognisedU9 | unrecognisedUE | unrecognisedUF =>
    exact .inl (unrecognised_stateOrFault _ s)
  | seImm | sneImm | seReg | sneReg => exact .inl (.of_fault_eq (State.skipIf_fault s _))
  | _ => exact .inl (.of_fault_eq rfl)

theorem step_stateOrFault {s : State} (hsp : s.sp.toNat ≤ 16) : StateOrFault s (step s) := by
  by_cases hf : s.fault = .clear
  · rw [step_of_clear hf]
    cases s.fetch with
    | none => exact .of_raise s _
    | some w =>
      exact (exec_stateOrFault (decodeWord w) s).resolve_right
        fun ⟨_, habsent⟩ => Nat.not_le.mpr habsent hsp
  · rw [step_of_faulted hf]
    exact .of_fault_eq rfl

/-! ### The latch stays set until `Reset` (R115) -/

theorem State.loadProgram_fault_of_faulted {s : State} (h : s.fault ≠ .clear) (bytes : List Byte) :
    (s.loadProgram bytes).fault = s.fault := by
  rw [State.loadProgram]
  split
  · rw [State.raise_of_faulted h]
  · exact State.memWriteAll_fault s _ _

/-- No event but `Reset` changes a latch that is set. -/
theorem State.apply_fault_of_faulted {s t : State} {e : Event} (h : s.fault ≠ .clear)
    (he : e ≠ .reset) (ht : s.apply e = .next t) : t.fault = s.fault := by
  cases e with
  | reset => exact absurd rfl he
  | loadProgram bytes => cases ht; exact State.loadProgram_fault_of_faulted h bytes
  | tick =>
    have hstep : step s = .next t := ht
    rw [step_of_faulted h] at hstep
    cases hstep
    rfl
  | updateTimers => cases ht; rfl
  | keyWrite k b => cases ht; rfl

/-- Settles O17: a step answers the next state or takes a fault, by cases on the instruction, and the
latch it leaves set no event but `Reset` changes. -/
theorem tickYieldsStateOrFault : Obligations.TickYieldsStateOrFault := by
  intro s hsp
  obtain ⟨t, hstep, hlatch⟩ := step_stateOrFault hsp
  refine ⟨t, hstep, ?_, fun hf => ⟨step_of_faulted hf, fun e u he hu =>
    State.apply_fault_of_faulted hf he hu⟩⟩
  obtain hkept | ⟨r, rfl⟩ := hlatch
  · exact .inl hkept
  · exact s.raise_latch_cases r

end Sys2Proof.Machine
end

section
/-! What an instruction can leave: one inversion of `exec`, from which the writers of each element of
the state (R14 to R20, R32, R98) and its frame are read off. -/

namespace Sys2Proof.Machine

open Sys2Proof

/-- What instruction `i` can leave of `s`: a fault taken (R113), or one of the ways to complete, each
with the elements it writes. -/
inductive Effect (s : State) : Instr → State → Prop where
  /-- A fault: the latch alone (R113). -/
  | faults (i : Instr) (r : FaultReport) : Effect s i (s.raise r)
  /-- `PC` alone, past this instruction, or past the next one too (R65). -/
  | advances (i : Instr) {k : Nat} (hk : k = 2 ∨ k = 4) : Effect s i (s.advance k)
  /-- `JP nnn` (R68). -/
  | jumps (nnn : Addr) : Effect s (.jp nnn) (s.setPc (zext16 nnn))
  /-- `JP V0, nnn` (R74). -/
  | jumpsOffset (nnn : Addr) : Effect s (.jpV0 nnn) (s.setPc (s.offsetTarget nnn))
  /-- `RETURN` with an entry to pop (R67). -/
  | returns {k : Nat} (hk : k < 16) (hsp : s.sp.toNat = k + 1) :
      Effect s .ret (s.dropTop.setPc s.stack[k])
  /-- `CALL` with room on the stack (R69). -/
  | calls (nnn : Addr) (hroom : s.sp.toNat < 16) :
      Effect s (.call nnn) ((s.push (s.pc + 2)).setPc (zext16 nnn))
  /-- A destination, and no flag (R80 to R85). -/
  | loads {i : Instr} {x : Reg} (b : Byte) (hx : destinationOf i = some x) :
      Effect s i (s.loadReg x b)
  /-- A flag, then the destination (R79, R86 to R90). -/
  | loadsWithFlag {i : Instr} {x : Reg} (f : Bool) (b : Byte) (hx : destinationOf i = some x)
      (hf : writesFlag i = true) : Effect s i ((s.setVF f).loadReg x b)
  /-- `LD I, nnn` (R91). -/
  | loadsIndex (nnn : Addr) : Effect s (.ldI nnn) ((s.setI (zext16 nnn)).advance 2)
  /-- `RND Vx, kk` (R92). -/
  | randomises (x : Reg) (kk b : Byte) : Effect s (.rnd x kk) (s.consumeDraw.loadReg x b)
  /-- `CLS` (R95). -/
  | clears : Effect s .cls ((s.setFb FrameBuffer.blank).advance 2)
  /-- `DRAW` within bounds (R96). -/
  | draws (x y : Reg) (n : Nibble) (f : Bool) (fb : FrameBuffer) :
      Effect s (.draw x y n) (((s.setVF f).setFb fb).advance 2)

/-! ### The inversion of `exec` -/

theorem Effect.of_skipIf (s : State) (i : Instr) (c : Bool) : Effect s i (s.skipIf c) := by
  cases c with
  | false => exact .advances i (.inl rfl)
  | true => exact .advances i (.inr rfl)

theorem execRet_effect {s t : State} (h : execRet s = .next t) : Effect s .ret t := by
  by_cases h0 : s.sp = 0
  · rw [execRet_of_empty h0] at h
    cases h
    exact .faults _ _
  · rcases Nat.lt_or_ge 16 s.sp.toNat with habsent | h16
    · rw [execRet_of_absent habsent] at h
      cases h
    · have hlive : s.sp.toNat ≠ 0 := fun h => h0 (BitVec.eq_of_toNat_eq h)
      rw [execRet_of_live hlive h16] at h
      cases h
      exact .returns (by omega) (by omega)

theorem execCall_effect {s t : State} {nnn : Addr} (h : execCall nnn s = .next t) :
    Effect s (.call nnn) t := by
  rcases Nat.lt_or_ge s.sp.toNat 16 with hroom | hfull
  · rw [execCall_of_room hroom] at h
    cases h
    exact .calls nnn hroom
  · rw [execCall_of_full hfull] at h
    cases h
    exact .faults _ _

theorem execDraw_effect {s t : State} {x y : Reg} {n : Nibble} (h : execDraw x y n s = .next t) :
    Effect s (.draw x y n) t := by
  cases hrange : s.spriteOutOfRange n with
  | false =>
    rw [execDraw_of_inRange hrange] at h
    cases h
    exact .draws x y n _ _
  | true =>
    rw [execDraw_of_outOfRange hrange] at h
    cases h
    exact .faults _ _

theorem unrecognised_effect {s t : State} {w : Word} (i : Instr)
    (h : unrecognised w s = .next t) : Effect s i t := by
  cases hstrict : s.params.strictUnimpl with
  | false =>
    rw [unrecognised_of_lenient hstrict] at h
    cases h
    exact .advances i (.inl rfl)
  | true =>
    rw [unrecognised_of_strict hstrict] at h
    cases h
    exact .faults i _

/-- Everything an instruction that answers a next state can have done. -/
theorem exec_effect {i : Instr} {s t : State} (h : exec i s = .next t) : Effect s i t := by
  cases i with
  | cls => cases h; exact .clears
  | ret => exact execRet_effect h
  | nop => cases h; exact .advances _ (.inl rfl)
  | jp nnn => cases h; exact .jumps nnn
  | call nnn => exact execCall_effect h
  | seImm | sneImm | seReg | sneReg => cases h; exact .of_skipIf s _ _
  | ldImm | addImm | ldReg | orReg | andReg | xorReg => cases h; exact .loads _ rfl
  | addReg | sub | shr | subn | shl => cases h; exact .loadsWithFlag _ _ rfl rfl
  | ldI nnn => cases h; exact .loadsIndex nnn
  | jpV0 nnn => cases h; exact .jumpsOffset nnn
  | rnd x kk => cases h; exact .randomises x kk _
  | draw x y n => exact execDraw_effect h
  | unrecognisedU5 | unrecognisedU8 | unrecognisedU9 | unrecognisedUE | unrecognisedUF =>
    exact unrecognised_effect _ h

/-! ### The writers of each element -/

section

variable {s t : State} {i : Instr} (e : Effect s i t)
include e

/-- No instruction writes a timer, a key, memory or a parameter (R32, R35, R42). -/
theorem Effect.frame :
    t.dt = s.dt ∧ t.st = s.st ∧ t.key = s.key ∧ t.mem = s.mem ∧ t.params = s.params := by
  cases e <;> exact ⟨rfl, rfl, rfl, rfl, rfl⟩

/-- `I` has one writer (R17). -/
theorem Effect.i_writers (h : t.i ≠ s.i) : ∃ nnn, i = .ldI nnn := by
  cases e with
  | loadsIndex nnn => exact ⟨nnn, rfl⟩
  | _ => exact (h rfl).elim

/-- `SP` moves with the stack alone (R19). -/
theorem Effect.sp_writers (h : t.sp ≠ s.sp) : i = .ret ∨ ∃ nnn, i = .call nnn := by
  cases e with
  | returns => exact .inl rfl
  | calls nnn => exact .inr ⟨nnn, rfl⟩
  | _ => exact (h rfl).elim

/-- `RETURN` is no writer of the stack: the popped entry stays (R20). -/
theorem Effect.stack_writers (h : t.stack ≠ s.stack) : ∃ nnn, i = .call nnn := by
  cases e with
  | calls nnn => exact ⟨nnn, rfl⟩
  | _ => exact (h rfl).elim

/-- The two display instructions write the frame buffer (R98). -/
theorem Effect.fb_writers (h : t.fb ≠ s.fb) : i = .cls ∨ ∃ x y n, i = .draw x y n := by
  cases e with
  | clears => exact .inl rfl
  | draws x y n => exact .inr ⟨x, y, n, rfl⟩
  | _ => exact (h rfl).elim

/-- A register changes as the destination, or as `VF` under a flag writer (R14, R15). -/
theorem Effect.reg_writers {r : Reg} (h : t.reg r ≠ s.reg r) :
    destinationOf i = some r ∨ (r = 15 ∧ writesFlag i = true) := by
  cases e with
  | loads b hx =>
    rw [State.reg_loadReg] at h
    obtain ⟨rfl, -⟩ := ite_ne_right_iff.mp h
    exact .inl hx
  | loadsWithFlag f b hx hf =>
    by_cases hr : r = vf
    · exact .inr ⟨hr, hf⟩
    · rw [State.reg_loadReg, State.reg_setVF, if_neg hr] at h
      obtain ⟨rfl, -⟩ := ite_ne_right_iff.mp h
      exact .inl hx
  | randomises x kk b =>
    rw [State.reg_loadReg, State.reg_consumeDraw] at h
    obtain ⟨rfl, -⟩ := ite_ne_right_iff.mp h
    exact .inl rfl
  | draws x y n f fb =>
    rw [State.reg_advance, State.reg_setFb, State.reg_setVF] at h
    obtain ⟨rfl, -⟩ := ite_ne_right_iff.mp h
    exact .inr ⟨rfl, rfl⟩
  | _ => exact (h rfl).elim

/-- `RND` alone draws, once (R27, R92). -/
theorem Effect.draws_writers (h : t.draws ≠ s.draws) :
    t.draws = s.draws + 1 ∧ ∃ x kk, i = .rnd x kk := by
  cases e with
  | randomises x kk => exact ⟨rfl, x, kk, rfl⟩
  | _ => exact (h rfl).elim

end

/-- Settles O51: each element's writers, read off what the instruction can have done. -/
theorem eachElementHasItsWriters : Obligations.EachElementHasItsWriters := by
  intro i s t h
  have e := exec_effect h
  exact ⟨e.i_writers, e.sp_writers, e.stack_writers, e.fb_writers, fun _ => e.reg_writers,
    e.draws_writers⟩

/-- Settles O38: the writers of a register, read at `VF`. -/
theorem flagWrittenOnlyByItsWriters : Obligations.FlagWrittenOnlyByItsWriters := by
  intro i s t h hvf
  obtain hdest | ⟨-, hflag⟩ := (exec_effect h).reg_writers hvf
  · exact .inr hdest
  · exact .inl hflag

/-- Settles O20: `SP` above 16 points past the last entry. -/
theorem returnWithoutEntryStops : Obligations.ReturnWithoutEntryStops :=
  fun _ habsent => execRet_of_absent habsent

/-! ### What a `Tick` leaves unchanged (R32, R121, R125) -/

theorem step_frame {s t : State} (h : step s = .next t) :
    t.dt = s.dt ∧ t.st = s.st ∧ t.key = s.key ∧ t.mem = s.mem ∧ t.params = s.params := by
  obtain ⟨-, rfl⟩ | ⟨-, -, rfl⟩ | ⟨-, w, -, hexec⟩ := step_next_cases h
  · exact ⟨rfl, rfl, rfl, rfl, rfl⟩
  · exact ⟨rfl, rfl, rfl, rfl, rfl⟩
  · exact (exec_effect hexec).frame

theorem step_mem {s t : State} (h : step s = .next t) : t.mem = s.mem := by
  obtain ⟨-, -, -, hmem, -⟩ := step_frame h
  exact hmem

/-- Settles O50: no instruction writes them, and of the other events only `Reset` and `LoadProgram`
write memory. -/
theorem tickLeavesTimersKeysMemory : Obligations.TickLeavesTimersKeysMemory := by
  refine ⟨fun _ _ => step_frame, fun s t e hreset hload h => ?_⟩
  cases e with
  | reset => exact absurd rfl hreset
  | loadProgram bytes => exact absurd rfl (hload bytes)
  | tick => exact step_mem h
  | updateTimers => cases h; rfl
  | keyWrite k b => cases h; rfl

end Sys2Proof.Machine
end

section
/-! Memory in canonical form is determined by what it reads (R26; log entry 9). -/

namespace Sys2Proof.Machine

open Sys2Proof

theorem Memory.wfFrom_cons (lo a : Nat) (b : Byte) (m : Memory) :
    Memory.wfFrom lo ((a, b) :: m) = true ↔
      lo ≤ a ∧ a < 4096 ∧ b ≠ 0 ∧ Memory.wfFrom (a + 1) m = true := by
  simp [Memory.wfFrom, and_assoc]

@[simp] theorem Memory.read_cons_self (a : Nat) (b : Byte) (m : Memory) :
    Memory.read ((a, b) :: m) a = b := if_pos rfl

theorem Memory.read_cons_ne {a k : Nat} (h : k ≠ a) (b : Byte) (m : Memory) :
    Memory.read ((a, b) :: m) k = Memory.read m k := if_neg h

/-- Where a canonical memory begins, it reads no 0. -/
theorem Memory.le_of_read_cons {lo a : Nat} {b : Byte} {m m' : Memory} (hb : b ≠ 0)
    (h' : Memory.wfFrom lo m' = true)
    (hread : ∀ k, Memory.read ((a, b) :: m) k = Memory.read m' k) : lo ≤ a := by
  by_contra hlt
  have ha := hread a
  rw [Memory.read_cons_self, Memory.read_below h' (Nat.not_le.mp hlt)] at ha
  exact hb ha

/-- By induction on the first memory: both begin with the same cell, and what follows reads alike. -/
theorem Memory.eq_of_read_eq {lo : Nat} {m m' : Memory} (h : Memory.wfFrom lo m = true)
    (h' : Memory.wfFrom lo m' = true) (hread : ∀ k, Memory.read m k = Memory.read m' k) :
    m = m' := by
  induction m generalizing lo m' with
  | nil =>
    cases m' with
    | nil => rfl
    | cons c' rest' =>
      obtain ⟨a', b'⟩ := c'
      obtain ⟨-, -, hb', -⟩ := (Memory.wfFrom_cons ..).mp h'
      exact absurd (Memory.le_of_read_cons (lo := a' + 1) hb' rfl fun k => (hread k).symm)
        a'.not_succ_le_self
  | cons c rest ih =>
    obtain ⟨a, b⟩ := c
    obtain ⟨-, hlt, hb, hrest⟩ := (Memory.wfFrom_cons ..).mp h
    cases m' with
    | nil => exact absurd (Memory.le_of_read_cons (lo := a + 1) hb rfl hread) a.not_succ_le_self
    | cons c' rest' =>
      obtain ⟨a', b'⟩ := c'
      obtain ⟨-, hlt', hb', hrest'⟩ := (Memory.wfFrom_cons ..).mp h'
      have haddr : a = a' := Nat.le_antisymm
        (Memory.le_of_read_cons hb' ((Memory.wfFrom_cons ..).mpr ⟨le_rfl, hlt, hb, hrest⟩)
          fun k => (hread k).symm)
        (Memory.le_of_read_cons hb ((Memory.wfFrom_cons ..).mpr ⟨le_rfl, hlt', hb', hrest'⟩) hread)
      subst haddr
      have hbyte : b = b' := by simpa using hread a
      have htail : ∀ k, Memory.read rest k = Memory.read rest' k := fun k => by
        rcases Nat.lt_or_ge a k with hk | hk
        · simpa [Memory.read_cons_ne hk.ne'] using hread k
        · rw [Memory.read_below hrest (Nat.lt_succ_of_le hk),
            Memory.read_below hrest' (Nat.lt_succ_of_le hk)]
      rw [hbyte, ih hrest hrest' htail]

/-- Settles O9: the canonical form from address 0 on. -/
theorem memoryEqualIfReadAlike : Obligations.MemoryEqualIfReadAlike :=
  fun _ _ => Memory.eq_of_read_eq

end Sys2Proof.Machine
end

section
/-! The values after reset (R28), and what the collaborators read (R23, R30). -/

namespace Sys2Proof.Machine

open Sys2Proof

/-- Settles O45: each element is read off `State.reset`, the vectors being constant. -/
theorem resetLeavesItsValues : Obligations.ResetLeavesItsValues := by
  have hstack : ∀ k (h : k < 16), State.reset.stack[k] = 0 := fun _ h => Vector.getElem_replicate h
  have hkey : ∀ k (h : k < 16), State.reset.key[k] = false := fun _ h => Vector.getElem_replicate h
  have hmem : ∀ a, a ≤ 0xFFF → State.reset.memRead1 a = some 0 :=
    fun _ ha => State.memRead1_of_lt _ (Nat.lt_succ_of_le ha)
  exact ⟨fun r => Vector.getElem_replicate r.isLt, rfl, rfl, rfl, hstack, rfl, rfl,
    FrameBuffer.cell_blank, hkey, hmem, rfl⟩

/-- The flat frame holds a cell row by row (D18). -/
theorem State.flatFrame_getElem (s : State) (cx : Fin 64) (cy : Fin 32) :
    s.flatFrame[cy.val * 64 + cx.val]'(by omega) = s.cell cx cy := by
  have hcx : Fin.ofNat 64 (cy.val * 64 + cx.val) = cx := Fin.ext (by simp)
  have hcy : Fin.ofNat 32 ((cy.val * 64 + cx.val) / 64) = cy := Fin.ext (by simp; omega)
  rw [State.flatFrame, Vector.getElem_ofFn, hcx, hcy]

theorem State.soundOn_iff (s : State) : s.soundOn = true ↔ s.st ≠ 0 := by
  rw [State.soundOn, decide_eq_true_iff, Nat.pos_iff_ne_zero]
  exact not_congr (BitVec.toNat_inj (y := 0))

/-- Settles O49: the place of a cell in the flat frame, and the test of `ST`. -/
theorem collaboratorsRead : Obligations.CollaboratorsRead :=
  fun s => ⟨s.flatFrame_getElem, s.soundOn_iff⟩

end Sys2Proof.Machine
end

section
/-! The machine's invariants hold at reset and every event keeps them: canonical memory and a legal
`SP` (R19), and the bounds of the reached states (R17, R75, R121). -/

namespace Sys2Proof.Machine

open Sys2Proof

/-! ### At reset -/

theorem State.reset_inv : State.reset.Inv := ⟨Memory.wf_reset, by decide⟩

theorem State.reset_reachedShape : State.reset.ReachedShape :=
  ⟨by decide, by decide, by decide, rfl, rfl⟩

/-- Settles O52: both are bounds on the values of `State.reset`. -/
theorem invariantsAtReset : Obligations.InvariantsAtReset :=
  ⟨State.reset_inv, State.reset_reachedShape⟩

/-! ### Canonical memory and a legal `SP` -/

/-- An instruction keeps `SP` in 0 to 16: `RETURN` takes an entry that exists, `CALL` needs room. -/
theorem Effect.sp_le {s t : State} {i : Instr} (e : Effect s i t) (h : s.sp.toNat ≤ 16) :
    t.sp.toNat ≤ 16 := by
  cases e with
  | returns hk hsp =>
    rw [State.setPc_sp, State.dropTop_sp]
    bv_omega
  | calls nnn hroom =>
    rw [State.setPc_sp, State.push_sp]
    bv_omega
  | _ => exact h

theorem step_sp_le {s t : State} (h : s.sp.toNat ≤ 16) (ht : step s = .next t) :
    t.sp.toNat ≤ 16 := by
  obtain ⟨-, rfl⟩ | ⟨-, -, rfl⟩ | ⟨-, w, -, hexec⟩ := step_next_cases ht
  · exact h
  · exact h
  · exact (exec_effect hexec).sp_le h

@[simp] theorem State.loadProgram_sp (s : State) (bytes : List Byte) :
    (s.loadProgram bytes).sp = s.sp := by
  rw [State.loadProgram]
  split
  · rfl
  · exact State.memWriteAll_sp s _ _

/-- Settles O53: by cases on the event; a `Tick` keeps memory as it is. -/
theorem eventsKeepInv : Obligations.EventsKeepInv := by
  rintro s t e ⟨hwf, hsp⟩ h
  cases e with
  | reset => cases h; exact State.reset_inv
  | loadProgram bytes =>
    cases h
    exact ⟨State.loadProgram_wf hwf bytes, by rwa [State.loadProgram_sp]⟩
  | tick => exact ⟨by rwa [step_mem h], step_sp_le hsp h⟩
  | updateTimers => cases h; exact ⟨hwf, hsp⟩
  | keyWrite k b => cases h; exact ⟨hwf, hsp⟩

/-! ### The bounds of the reached states -/

theorem zext16_toNat_le (nnn : Addr) : (zext16 nnn).toNat ≤ 0xFFF := by
  simp only [zext16, BitVec.toNat_setWidth]
  omega

/-- The greatest target is 0xFFF + 0xFF (R74). -/
theorem State.offsetTarget_toNat_le (s : State) (nnn : Addr) :
    (s.offsetTarget nnn).toNat ≤ 0x10FE := by
  have hnnn := zext16_toNat_le nnn
  simp only [State.offsetTarget, BitVec.toNat_add, BitVec.toNat_setWidth]
  omega

theorem Effect.i_le {s t : State} {i : Instr} (e : Effect s i t) (h : s.i.toNat ≤ 0xFFF) :
    t.i.toNat ≤ 0xFFF := by
  cases e with
  | loadsIndex nnn => exact zext16_toNat_le nnn
  | _ => exact h

theorem Effect.stack_le {s t : State} {i : Instr} (e : Effect s i t)
    (hpc : s.pc.toNat ≤ 0xFFE) (h : ∀ k (hk : k < 16), s.stack[k].toNat ≤ 0x1000) :
    ∀ k (hk : k < 16), t.stack[k].toNat ≤ 0x1000 := by
  cases e with
  | calls nnn hroom =>
    intro k hk
    simp only [State.setPc_stack, State.push_stack, Vector.getElem_setIfInBounds]
    split
    · bv_omega
    · exact h k hk
  | _ => exact h

theorem State.advance_pc_le {s : State} (h : s.pc.toNat ≤ 0xFFE) {k : Nat} (hk : k = 2 ∨ k = 4) :
    (s.advance k).pc.toNat ≤ 0x1002 := by
  rw [State.advance_pc, BitVec.toNat_add, BitVec.toNat_ofNat]
  omega

/-- Where an instruction leaves `PC`: `JP V0, nnn` reaches the greatest address (R75). -/
theorem Effect.pc_le {s t : State} {i : Instr} (e : Effect s i t)
    (hpc : s.pc.toNat ≤ 0xFFE) (hstack : ∀ k (hk : k < 16), s.stack[k].toNat ≤ 0x1000) :
    t.pc.toNat ≤ 0x10FE := by
  have hadvance : (s.advance 2).pc.toNat ≤ 0x10FE :=
    (State.advance_pc_le hpc (.inl rfl)).trans (by decide)
  cases e with
  | faults => exact hpc.trans (by decide)
  | advances _ hk => exact (State.advance_pc_le hpc hk).trans (by decide)
  | jumps nnn => exact (zext16_toNat_le nnn).trans (by decide)
  | jumpsOffset nnn => exact s.offsetTarget_toNat_le nnn
  | returns hk => exact (hstack _ hk).trans (by decide)
  | calls nnn => exact (zext16_toNat_le nnn).trans (by decide)
  | _ => exact hadvance

theorem Effect.reachedShape {s t : State} {i : Instr} (e : Effect s i t)
    (hpc : s.pc.toNat ≤ 0xFFE) (h : s.ReachedShape) : t.ReachedShape := by
  obtain ⟨hi, -, hstack, hdt, hst⟩ := h
  obtain ⟨hdt', hst', -⟩ := e.frame
  exact ⟨e.i_le hi, e.pc_le hpc hstack, e.stack_le hpc hstack, hdt'.trans hdt, hst'.trans hst⟩

theorem State.fetch_pc_le {s : State} {w : Word} (h : s.fetch = some w) : s.pc.toNat ≤ 0xFFE := by
  by_contra hpc
  rw [State.fetch_eq, if_neg hpc] at h
  cases h

theorem step_reachedShape {s t : State} (h : s.ReachedShape) (ht : step s = .next t) :
    t.ReachedShape := by
  obtain ⟨-, rfl⟩ | ⟨-, -, rfl⟩ | ⟨-, w, hw, hexec⟩ := step_next_cases ht
  · exact h
  · exact h
  · exact (exec_effect hexec).reachedShape (State.fetch_pc_le hw) h

theorem State.loadProgram_reachedShape {s : State} (h : s.ReachedShape) (bytes : List Byte) :
    (s.loadProgram bytes).ReachedShape := by
  rw [State.loadProgram]
  split
  · exact h
  · simpa [State.ReachedShape] using h

/-- Timers at 0 stay there (R120, R121). -/
theorem State.updateTimers_reachedShape {s : State} (h : s.ReachedShape) :
    s.updateTimers.ReachedShape := by
  obtain ⟨hi, hpc, hstack, hdt, hst⟩ := h
  exact ⟨hi, hpc, hstack, by rw [State.updateTimers_dt, hdt]; rfl,
    by rw [State.updateTimers_st, hst]; rfl⟩

theorem State.apply_reachedShape {s t : State} {e : Event} (h : s.ReachedShape)
    (ht : s.apply e = .next t) : t.ReachedShape := by
  cases e with
  | reset => cases ht; exact State.reset_reachedShape
  | loadProgram bytes => cases ht; exact State.loadProgram_reachedShape h bytes
  | tick => exact step_reachedShape h ht
  | updateTimers => cases ht; exact State.updateTimers_reachedShape h
  | keyWrite k b => cases ht; exact h

theorem State.ReachedShape.soundOn {s : State} (h : s.ReachedShape) : s.soundOn = false := by
  obtain ⟨-, -, -, -, hst⟩ := h
  exact Bool.eq_false_iff.mpr fun hon => s.soundOn_iff.mp hon hst

/-- Settles O54: by cases on the event; an instruction is fetched at 0xFFE at most, so what it leaves in
`PC` and on the stack stays in bounds. -/
theorem eventsKeepReachedShape : Obligations.EventsKeepReachedShape := fun _ _ _ h ht =>
  have ht' := State.apply_reachedShape h ht
  ⟨ht', ht'.soundOn⟩

end Sys2Proof.Machine
end

section
/-! Memory as the host and the fetch see it: reads of one and two bytes (R36, R37), a write of one byte
(R43), a load of an image (R44), and the bounds of the fetch (R40, R111). -/

namespace Sys2Proof.Machine

open Sys2Proof

/-! ### A write of one byte (R43) -/

theorem State.memRead1_memWrite {s : State} (h : Memory.wf s.mem = true) {a : Nat} (ha : a < 4096)
    (b : Byte) (k : Nat) :
    (s.memWrite a b).memRead1 k = if k = a then some b else s.memRead1 k := by
  rw [State.memWrite, if_pos ha]
  rcases Nat.lt_or_ge k 4096 with hk | hk
  · rw [State.memRead1_of_lt _ hk, State.memRead1_of_lt _ hk, Memory.read_insert h, apply_ite some]
  · rw [State.memRead1_of_ge _ hk, State.memRead1_of_ge _ hk, if_neg (by omega)]

/-- The frame of a write: the field laws of `memWrite`, all but the one of `mem`. -/
theorem State.memWrite_with_mem (s : State) (a : Nat) (b : Byte) :
    { s.memWrite a b with mem := s.mem } = s := by
  simp

/-- The frame of a run of writes, by the field laws of `memWriteAll`. -/
theorem State.memWriteAll_with_mem (s : State) (a : Nat) (bs : List Byte) :
    { s.memWriteAll a bs with mem := s.mem } = s := by
  simp

/-! ### A load of an image (R44) -/

theorem loadResponse_of_long {bytes : List Byte} (h : 3584 < bytes.length) :
    loadResponse bytes = .loadError := if_pos h

theorem State.loadProgram_of_long (s : State) {bytes : List Byte} (h : 3584 < bytes.length) :
    s.loadProgram bytes = s.raise (.loadError bytes.length) := if_pos h

theorem State.loadProgram_of_fits (s : State) {bytes : List Byte} (h : bytes.length ≤ 3584) :
    s.loadProgram bytes = s.memWriteAll 0x200 bytes := if_neg (Nat.not_lt.mpr h)

theorem State.memRead1_loadProgram_of_long (s : State) {bytes : List Byte}
    (h : 3584 < bytes.length) (a : Nat) : (s.loadProgram bytes).memRead1 a = s.memRead1 a := by
  rw [State.loadProgram_of_long s h]
  exact State.memRead1_congr (s.raise_mem _) a

section
variable {s : State} {bytes : List Byte} (hwf : Memory.wf s.mem = true) (hfits : bytes.length ≤ 3584)
include hwf hfits

theorem State.memRead1_loadProgram_image {k : Nat} (hk : k < bytes.length) :
    (s.loadProgram bytes).memRead1 (0x200 + k) = some bytes[k] := by
  rw [State.loadProgram_of_fits s hfits, State.memRead1_memWriteAll hwf (by omega) (by omega),
    dif_pos (by omega)]
  simp

theorem State.memRead1_loadProgram_outside {a : Nat} (ha : a < 0x200 ∨ 0x200 + bytes.length ≤ a) :
    (s.loadProgram bytes).memRead1 a = s.memRead1 a := by
  rcases Nat.lt_or_ge a 4096 with hlt | hge
  · rw [State.loadProgram_of_fits s hfits, State.memRead1_memWriteAll hwf (by omega) hlt,
      dif_neg (by omega)]
  · rw [State.memRead1_of_ge _ hge, State.memRead1_of_ge _ hge]

end

/-- Settles O10: by cases on the length of the image. -/
theorem loadProgramEffect : Obligations.LoadProgramEffect := by
  refine fun s bytes hwf => ⟨s.loadProgram bytes, rfl, fun hlong => ?_, fun hfits => ?_⟩
  · rw [State.loadProgram_of_long s hlong]
    exact ⟨loadResponse_of_long hlong, rfl⟩
  · refine ⟨(loadResponse_ok_iff bytes).mpr hfits,
      fun k hk => State.memRead1_loadProgram_image hwf hfits hk,
      fun a ha => State.memRead1_loadProgram_outside hwf hfits ha, ?_⟩
    rw [State.loadProgram_of_fits s hfits]
    exact s.memWriteAll_with_mem _ _

/-- A load changes bytes of the program area alone. -/
theorem State.loadProgram_writes_within {s : State} (hwf : Memory.wf s.mem = true)
    {bytes : List Byte} {a : Nat} (hne : (s.loadProgram bytes).memRead1 a ≠ s.memRead1 a) :
    0x200 ≤ a ∧ a ≤ 0xFFF := by
  rcases Nat.lt_or_ge 3584 bytes.length with hlong | hfits
  · exact absurd (s.memRead1_loadProgram_of_long hlong a) hne
  · by_contra hout
    exact hne (State.memRead1_loadProgram_outside hwf hfits (by omega))

/-- Settles O8: the laws of a write; and of the events other than `Reset` those besides `LoadProgram`
keep memory (`tickLeavesTimersKeysMemory`). -/
theorem memWriteOneByte : Obligations.MemWriteOneByte := by
  constructor
  · intro s a b hwf ha
    exact ⟨State.memRead1_memWrite hwf (Nat.lt_succ_of_le ha) b, State.memWrite_wf hwf a b,
      s.memWrite_with_mem a b⟩
  · intro s t e a hwf hreset h hne
    obtain ⟨-, hkeeps⟩ := tickLeavesTimersKeysMemory
    by_cases hload : ∃ bytes, e = .loadProgram bytes
    · obtain ⟨bytes, rfl⟩ := hload
      cases h
      exact ⟨⟨bytes, rfl⟩, State.loadProgram_writes_within hwf hne⟩
    · have hmem := hkeeps s t e hreset (not_exists.mp hload) h
      exact absurd (State.memRead1_congr hmem a) hne

/-! ### Reads of two bytes (R37) -/

theorem wordOfBytes_toNat (hi lo : Byte) :
    (wordOfBytes hi lo).toNat = hi.toNat * 256 + lo.toNat := by
  rw [wordOfBytes, BitVec.toNat_append, ← Nat.shiftLeft_add_eq_or_of_lt lo.isLt, Nat.shiftLeft_eq]

theorem State.memRead2_of_le (s : State) {a : Nat} (h : a ≤ 0xFFE) :
    s.memRead2 a = some (wordOfBytes (Memory.read s.mem a) (Memory.read s.mem (a + 1))) := by
  rw [State.memRead2, State.memRead1_of_lt s (by omega), State.memRead1_of_lt s (by omega)]

theorem State.memRead2_of_gt (s : State) {a : Nat} (h : 0xFFE < a) : s.memRead2 a = none := by
  rw [State.memRead2, State.memRead1_of_ge s (a := a + 1) (by omega)]
  cases s.memRead1 a <;> rfl

/-- Settles O7: the laws of the two reads, on either side of their bounds. -/
theorem memReadPrimitives : Obligations.MemReadPrimitives := by
  refine fun s a => ⟨fun ha => s.memRead1_of_lt (by omega), fun ha => s.memRead1_of_ge (by omega),
    fun ha => ?_, fun ha => s.memRead2_of_gt (by omega), rfl⟩
  exact ⟨_, _, _, s.memRead2_of_le (by omega), s.memRead1_of_lt (by omega),
    s.memRead1_of_lt (by omega), wordOfBytes_toNat _ _⟩

/-! ### The bounds of the fetch (R40, R111) -/

theorem State.fetch_of_le {s : State} (h : s.pc.toNat ≤ 0xFFE) :
    s.fetch = some (wordOfBytes (Memory.read s.mem s.pc.toNat) (Memory.read s.mem (s.pc.toNat + 1))) :=
  s.memRead2_of_le h

theorem State.fetch_of_gt {s : State} (h : 0xFFE < s.pc.toNat) : s.fetch = none :=
  s.memRead2_of_gt h

/-- The second byte of the word does not exist, so there is no record (R31, R111). -/
theorem State.traceRecord_of_gt {s : State} (h : 0xFFE < s.pc.toNat) : s.traceRecord = none := by
  rw [State.traceRecord, State.memRead1_of_ge s (a := s.pc.toNat + 1) (by omega), ite_eq_left_iff]
  intro
  cases s.memRead1 s.pc.toNat <;> rfl

theorem step_of_fetch_none {s : State} (hclear : s.fault = .clear) (hfetch : s.fetch = none) :
    step s = .next (s.raise (.fetchOutOfRange s.pc)) := by
  rw [step_of_clear hclear, hfetch]

/-- Settles O13: the fetch is the two-byte read at `PC`, and where it answers none the `Tick` faults. -/
theorem fetchBounds : Obligations.FetchBounds := by
  refine fun s => ⟨fun hle => ⟨?_, rfl⟩, fun hgt => ?_⟩
  · rw [State.fetch_of_le hle]
    exact Option.some_ne_none _
  · refine ⟨State.fetch_of_gt hgt, fun hclear => ⟨State.traceRecord_of_gt hgt, _,
      step_of_fetch_none hclear (State.fetch_of_gt hgt), rfl, ?_⟩⟩
    rw [State.raise_of_clear hclear]
    rfl

end Sys2Proof.Machine
end

section
/-! Decoding and encoding are inverse to each other: every well-formed instruction comes back from its
word (R61, R64), and every word from its instruction (R58). -/

namespace Sys2Proof

/-! ### An instruction comes back from its word -/

/-- `0nnn` is neither `00E0` nor `00EE` when `nnn` is not their low part (R56). -/
theorem decodeDigit0_nop {nnn : Addr} (h : Instr.wellFormed (.nop nnn) = true) :
    decodeDigit0 (packNNN 0x0#4 nnn) = .nop nnn := by
  obtain ⟨hcls, hret⟩ : nnn ≠ 0x0E0#12 ∧ nnn ≠ 0x0EE#12 := by simpa [Instr.wellFormed] using h
  have hne (w : Word) (hw : nnn ≠ fieldNNN w) : packNNN 0x0#4 nnn ≠ w := fun heq =>
    hw (by rw [← heq, fieldNNN_packNNN])
  rw [decodeDigit0, if_neg (hne 0x00E0#16 hcls), if_neg (hne 0x00EE#16 hret), fieldNNN_packNNN]

theorem decodeWord_encode {i : Instr} (h : i.wellFormed = true) : decodeWord (encode i) = i := by
  cases i with
  | cls => rfl
  | ret => rfl
  | nop nnn => rw [encode, decodeWord_digit0 (fieldDigit_packNNN _ _), decodeDigit0_nop h]
  | unrecognisedU8 x y n =>
    have hn : isU8Nibble (fieldN (packXYN 0x8#4 x y n)) = true := by rwa [fieldN_packXYN]
    rw [encode, decodeWord_digit8_unrecognised (fieldDigit_packXYN _ _ _ _) hn, fieldX_packXYN,
      fieldY_packXYN, fieldN_packXYN]
  | unrecognisedU5 x y n | unrecognisedU9 x y n =>
    have hn : n ≠ 0#4 := by simpa [Instr.wellFormed] using h
    simp [encode, decodeWord, decodeDigit5, decodeDigit9, hn]
  | _ => simp [encode, decodeWord, decodeDigit5, decodeDigit8, decodeDigit9]

/-- Settles O4: the word gives the instruction back, and the two bytes are those of the word (R52). -/
theorem decodeOfEncode : Obligations.DecodeOfEncode := by
  refine fun i rest h => ⟨decodeWord_encode h, ?_⟩
  rw [encodeBytes, List.cons_append, List.cons_append, List.nil_append, decode_bytes,
    decodeWord_encode h]

/-! ### A word comes back from its instruction -/

section
variable {w : Word} {d : Nibble} (h : fieldDigit w = d)
include h

theorem packNNN_of_digit : packNNN d (fieldNNN w) = w := h ▸ packNNN_fields w

theorem packXKK_of_digit : packXKK d (fieldX w) (fieldKK w) = w := h ▸ packXKK_fields w

theorem packXYN_of_digit : packXYN d (fieldX w) (fieldY w) (fieldN w) = w := h ▸ packXYN_fields w

theorem packXYN_of_digit_n {n : Nibble} (hn : fieldN w = n) :
    packXYN d (fieldX w) (fieldY w) n = w := hn ▸ packXYN_of_digit h

end

/-- The instruction is well-formed and the word is its encoding. -/
def EncodedAs (i : Instr) (w : Word) : Prop := i.wellFormed = true ∧ encode i = w

theorem decodeDigit0_encodedAs {w : Word} (h : fieldDigit w = 0x0#4) :
    EncodedAs (decodeDigit0 w) w := by
  rw [decodeDigit0]
  split_ifs with hcls hret
  · exact ⟨rfl, hcls.symm⟩
  · exact ⟨rfl, hret.symm⟩
  · refine ⟨?_, packNNN_of_digit h⟩
    have hne (a : Addr) (ha : w ≠ packNNN 0x0#4 a) : fieldNNN w ≠ a := fun heq =>
      ha (heq ▸ (packNNN_of_digit h).symm)
    simpa [Instr.wellFormed] using And.intro (hne 0x0E0#12 hcls) (hne 0x0EE#12 hret)

theorem decodeDigit5_encodedAs {w : Word} (h : fieldDigit w = 0x5#4) :
    EncodedAs (decodeDigit5 w) w := by
  rw [decodeDigit5]
  split_ifs with hn
  · exact ⟨rfl, packXYN_of_digit_n h hn⟩
  · exact ⟨bne_iff_ne.mpr hn, packXYN_of_digit h⟩

theorem decodeDigit9_encodedAs {w : Word} (h : fieldDigit w = 0x9#4) :
    EncodedAs (decodeDigit9 w) w := by
  rw [decodeDigit9]
  split_ifs with hn
  · exact ⟨rfl, packXYN_of_digit_n h hn⟩
  · exact ⟨bne_iff_ne.mpr hn, packXYN_of_digit h⟩

/-- The nibbles left over by the nine sub-opcodes of digit 8 are those of group U8 (R93, R102). -/
theorem isU8Nibble_of_ne {n : Nibble} (h : n ∉ [0#4, 1#4, 2#4, 3#4, 4#4, 5#4, 6#4, 7#4, 0xE#4]) :
    isU8Nibble n = true := by
  revert n; decide

theorem decodeDigit8_encodedAs {w : Word} (h : fieldDigit w = 0x8#4) :
    EncodedAs (decodeDigit8 w) w := by
  rw [decodeDigit8]
  split_ifs with h0 h1 h2 h3 h4 h5 h6 h7 hE
  case neg => exact ⟨isU8Nibble_of_ne (by simp [*]), packXYN_of_digit h⟩
  all_goals exact ⟨rfl, packXYN_of_digit_n h (by assumption)⟩

theorem decodeWord_encodedAs (w : Word) : EncodedAs (decodeWord w) w := by
  rcases nibble_cases (fieldDigit w) with
    h | h | h | h | h | h | h | h | h | h | h | h | h | h | h | h
  · rw [decodeWord_digit0 h]; exact decodeDigit0_encodedAs h
  · rw [decodeWord_digit1 h]; exact ⟨rfl, packNNN_of_digit h⟩
  · rw [decodeWord_digit2 h]; exact ⟨rfl, packNNN_of_digit h⟩
  · rw [decodeWord_digit3 h]; exact ⟨rfl, packXKK_of_digit h⟩
  · rw [decodeWord_digit4 h]; exact ⟨rfl, packXKK_of_digit h⟩
  · rw [decodeWord_digit5 h]; exact decodeDigit5_encodedAs h
  · rw [decodeWord_digit6 h]; exact ⟨rfl, packXKK_of_digit h⟩
  · rw [decodeWord_digit7 h]; exact ⟨rfl, packXKK_of_digit h⟩
  · rw [decodeWord_digit8 h]; exact decodeDigit8_encodedAs h
  · rw [decodeWord_digit9 h]; exact decodeDigit9_encodedAs h
  · rw [decodeWord_digitA h]; exact ⟨rfl, packNNN_of_digit h⟩
  · rw [decodeWord_digitB h]; exact ⟨rfl, packNNN_of_digit h⟩
  · rw [decodeWord_digitC h]; exact ⟨rfl, packXKK_of_digit h⟩
  · rw [decodeWord_digitD h]; exact ⟨rfl, packXYN_of_digit h⟩
  · rw [decodeWord_digitE h]; exact ⟨rfl, packNNN_of_digit h⟩
  · rw [decodeWord_digitF h]; exact ⟨rfl, packNNN_of_digit h⟩

/-- Settles O5: digit by digit, the word is packed again from the fields its instruction keeps. -/
theorem encodeOfDecode : Obligations.EncodeOfDecode := decodeWord_encodedAs

end Sys2Proof
end

section
/-! Dispatch is the ordered opcode table: the decoder takes the first row a word matches (R56), and
outside digit 0 the recognised rows do not overlap. -/

namespace Sys2Proof

/-! ### The first matching row -/

/-- The digit and the `n` of a word, all that the rows after `00E0` and `00EE` look at. -/
def digitAndN (w : Word) : Word := packXYN (fieldDigit w) 0 0 (fieldN w)

theorem and_F00F (w : Word) : w &&& 0xF00F#16 = digitAndN w := by
  have hmask : 0xF00F#16 = 0xF#4 ++ 0x0#4 ++ 0x0#4 ++ 0xF#4 := rfl
  conv_lhs => rw [← packXYN_fields w, packXYN, hmask, BitVec.and_append, BitVec.and_append,
    BitVec.and_append]
  rw [show (0xF#4 : Nibble) = BitVec.allOnes 4 from rfl, BitVec.and_allOnes, BitVec.and_allOnes,
    BitVec.and_zero, BitVec.and_zero]
  rfl

/-- The row of one word matches no other word. -/
theorem rowTest_of_ne {w v : Word} (h : w ≠ v) : (w &&& 0xFFFF == v) = false := by
  rw [show w &&& 0xFFFF = w from BitVec.and_allOnes]
  exact beq_false_of_ne h

/-- Every row but the first two masks the digit, or the digit and `n` (R57, R59). -/
theorem opcodeRows_mask :
    ∀ r ∈ opcodeRows, r = (0xFFFF, 0x00E0) ∨ r = (0xFFFF, 0x00EE) ∨ 0xF00F#16 &&& r.1 = r.1 := by
  simp [opcodeRows]

/-- `x` and `y` of `00E0` and `00EE` are not both 0, as those of `digitAndN` are. -/
theorem digitAndN_ne (w : Word) : digitAndN w ≠ 0x00E0#16 ∧ digitAndN w ≠ 0x00EE#16 := by
  have hy : fieldY (digitAndN w) = 0 := fieldY_packXYN _ _ _ _
  constructor <;> intro heq <;> rw [heq] at hy <;> exact absurd hy (by decide)

theorem findIdx?_eq_of_forall_mem {α : Type} {p q : α → Bool} {xs : List α}
    (h : ∀ x ∈ xs, p x = q x) : xs.findIdx? p = xs.findIdx? q := by
  induction xs with
  | nil => rfl
  | cons x xs ih =>
    obtain ⟨hx, hxs⟩ := List.forall_mem_cons.mp h
    rw [List.findIdx?_cons, List.findIdx?_cons, hx, ih hxs]

section
variable {w : Word} (hcls : w ≠ 0x00E0#16) (hret : w ≠ 0x00EE#16)
include hcls hret

theorem rowTest_digitAndN {r : Word × Word} (hr : r ∈ opcodeRows) :
    (digitAndN w &&& r.1 == r.2) = (w &&& r.1 == r.2) := by
  obtain ⟨hcls', hret'⟩ := digitAndN_ne w
  rcases opcodeRows_mask r hr with rfl | rfl | hmask
  · exact (rowTest_of_ne hcls').trans (rowTest_of_ne hcls).symm
  · exact (rowTest_of_ne hret').trans (rowTest_of_ne hret).symm
  · rw [← and_F00F, BitVec.and_assoc, hmask]

theorem firstMatchingRow_digitAndN : firstMatchingRow (digitAndN w) = firstMatchingRow w :=
  findIdx?_eq_of_forall_mem fun _ hr => rowTest_digitAndN hcls hret hr

theorem decodeWord_row_digitAndN : (decodeWord (digitAndN w)).row = (decodeWord w).row := by
  obtain ⟨hcls', hret'⟩ := digitAndN_ne w
  have hd : fieldDigit (digitAndN w) = fieldDigit w := fieldDigit_packXYN _ _ _ _
  have hn : fieldN (digitAndN w) = fieldN w := fieldN_packXYN _ _ _ _
  simp only [decodeWord, decodeDigit0, decodeDigit5, decodeDigit8, decodeDigit9,
    apply_ite Instr.row, hd, hn, hcls, hret, hcls', hret', if_false]
  rfl

end

/-- The 256 pairs of a digit and an `n` dispatch as the table says. -/
theorem firstMatchingRow_packXYN : ∀ d n : Nibble,
    firstMatchingRow (packXYN d 0 0 n) = some (decodeWord (packXYN d 0 0 n)).row := by
  decide

theorem firstMatchingRow_eq (w : Word) : firstMatchingRow w = some (decodeWord w).row := by
  by_cases hcls : w = 0x00E0#16
  · rw [hcls]; rfl
  by_cases hret : w = 0x00EE#16
  · rw [hret]; rfl
  rw [← firstMatchingRow_digitAndN hcls hret, ← decodeWord_row_digitAndN hcls hret]
  exact firstMatchingRow_packXYN _ _

/-! ### Overlaps of the recognised rows -/

/-- A mask over the whole digit fixes the digit of the words it matches. -/
theorem fieldDigit_of_and_eq {w mask v : Word} (hmask : fieldDigit mask = BitVec.allOnes 4)
    (h : w &&& mask = v) : fieldDigit w = fieldDigit v :=
  calc fieldDigit w = fieldDigit w &&& fieldDigit mask := by rw [hmask, BitVec.and_allOnes]
    _ = fieldDigit (w &&& mask) := BitVec.extractLsb'_and.symm
    _ = fieldDigit v := by rw [h]

theorem opcodeRows_mask_digit :
    ∀ i < 24, fieldDigit (opcodeRows.getD i (0, 0)).1 = BitVec.allOnes 4 := by
  decide

/-- Two rows a word matches agree where both masks look. -/
theorem rows_agree {w : Word} {r r' : Word × Word} (h : w &&& r.1 = r.2) (h' : w &&& r'.1 = r'.2) :
    r.2 &&& r'.1 = r'.2 &&& r.1 := by
  rw [← h, ← h', BitVec.and_assoc, BitVec.and_assoc, BitVec.and_comm r.1]

/-- Of two recognised rows that agree where both masks look, the first has digit 0. -/
theorem fieldDigit_of_rows_agree : ∀ j < 24, ∀ i < j,
    (opcodeRows.getD i (0, 0)).2 &&& (opcodeRows.getD j (0, 0)).1 =
      (opcodeRows.getD j (0, 0)).2 &&& (opcodeRows.getD i (0, 0)).1 →
    fieldDigit (opcodeRows.getD i (0, 0)).2 = 0 := by
  decide

/-- Settles O6: the table looks at the digit and `n` alone once `00E0` and `00EE` are taken, and two
recognised rows agree under both masks in digit 0 only. -/
theorem decodeTakesFirstRow : Obligations.DecodeTakesFirstRow := by
  refine ⟨firstMatchingRow_eq, fun w i j hij hj hi hj' => ?_⟩
  rw [fieldDigit_of_and_eq (opcodeRows_mask_digit i (hij.trans hj)) hi]
  exact fieldDigit_of_rows_agree j hj i hij (rows_agree hi hj')

end Sys2Proof
end

section
/-! The fields as numbers (R53), the packed words as numbers (R64), and sample words of each family. -/

namespace Sys2Proof

/-! ### Fields as numbers (R53) -/

theorem fieldDigit_toNat (w : Word) : (fieldDigit w).toNat = w.toNat / 4096 := by
  rw [fieldDigit, BitVec.extractLsb'_toNat, Nat.shiftRight_eq_div_pow]
  exact Nat.mod_eq_of_lt (by omega)

theorem fieldX_val (w : Word) : (fieldX w).val = w.toNat / 256 % 16 := by
  change (w.extractLsb' 8 4).toNat = _
  rw [BitVec.extractLsb'_toNat, Nat.shiftRight_eq_div_pow]

theorem fieldY_val (w : Word) : (fieldY w).val = w.toNat / 16 % 16 := by
  change (w.extractLsb' 4 4).toNat = _
  rw [BitVec.extractLsb'_toNat, Nat.shiftRight_eq_div_pow]

theorem fieldN_toNat (w : Word) : (fieldN w).toNat = w.toNat % 16 := BitVec.extractLsb'_toNat 0 4 w

theorem fieldNNN_toNat (w : Word) : (fieldNNN w).toNat = w.toNat % 4096 :=
  BitVec.extractLsb'_toNat 0 12 w

theorem fieldKK_toNat (w : Word) : (fieldKK w).toNat = w.toNat % 256 :=
  BitVec.extractLsb'_toNat 0 8 w

/-- Settles O1: each field as a number, of a word and of two bytes. -/
theorem fieldsOfOpcode : Obligations.FieldsOfOpcode := by
  refine ⟨fun w => ⟨?_, ?_, ?_, ?_, ?_, ?_⟩, fun hi lo => ⟨?_, ?_, ?_, ?_, ?_, ?_⟩⟩
  · rw [fieldDigit_toNat, Nat.shiftRight_eq_div_pow]
  · rw [fieldX_val, Nat.shiftRight_eq_div_pow, Nat.and_two_pow_sub_one_eq_mod _ 4]
  · rw [fieldY_val, Nat.shiftRight_eq_div_pow, Nat.and_two_pow_sub_one_eq_mod _ 4]
  · rw [fieldN_toNat, Nat.and_two_pow_sub_one_eq_mod _ 4]
  · rw [fieldNNN_toNat, Nat.and_two_pow_sub_one_eq_mod _ 12]
  · rw [fieldKK_toNat, Nat.and_two_pow_sub_one_eq_mod _ 8]
  · rw [fieldDigit_toNat, Machine.wordOfBytes_toNat]; omega
  · rw [fieldX_val, Machine.wordOfBytes_toNat]; omega
  · rw [fieldY_val, Machine.wordOfBytes_toNat]; omega
  · rw [fieldN_toNat, Machine.wordOfBytes_toNat]; omega
  · exact lowByte_wordOfBytes hi lo
  · rw [fieldNNN_toNat, Machine.wordOfBytes_toNat]; omega

/-! ### Packed words as numbers (R64) -/

theorem toNat_append_eq_add {m n : Nat} (a : BitVec m) (b : BitVec n) :
    (a ++ b).toNat = a.toNat * 2 ^ n + b.toNat := by
  rw [BitVec.toNat_append, ← Nat.shiftLeft_add_eq_or_of_lt b.isLt, Nat.shiftLeft_eq]

theorem ofFin_toNat (x : Reg) : (BitVec.ofFin x : Nibble).toNat = x.val := rfl

theorem packNNN_toNat (d : Nibble) (nnn : Addr) :
    (packNNN d nnn).toNat = d.toNat * 4096 + nnn.toNat :=
  toNat_append_eq_add d nnn

theorem packXKK_toNat (d : Nibble) (x : Reg) (kk : Byte) :
    (packXKK d x kk).toNat = d.toNat * 4096 + x.val * 256 + kk.toNat := by
  rw [packXKK, toNat_append_eq_add, toNat_append_eq_add, ofFin_toNat x]
  omega

theorem packXYN_toNat (d : Nibble) (x y : Reg) (n : Nibble) :
    (packXYN d x y n).toNat = d.toNat * 4096 + x.val * 256 + y.val * 16 + n.toNat := by
  rw [packXYN, toNat_append_eq_add, toNat_append_eq_add, toNat_append_eq_add, ofFin_toNat x,
    ofFin_toNat y]
  omega

/-- Settles O2: the three formulas; the examples are evaluated. -/
theorem encodingFormulas : Obligations.EncodingFormulas :=
  ⟨packNNN_toNat, packXKK_toNat, packXYN_toNat, by decide⟩

/-- Settles O3: each word is evaluated. -/
theorem sampleWordsDecode : Obligations.SampleWordsDecode := by
  unfold Obligations.SampleWordsDecode
  decide

end Sys2Proof
end

section
/-! One `Tick` on a machine without a fault: the word fetched, the record traced and the instruction
run (R51, R31). -/

namespace Sys2Proof.Machine

open Sys2Proof

theorem State.traceRecord_of_faulted {s : State} (h : s.fault ≠ .clear) : s.traceRecord = none :=
  if_pos h

theorem State.memRead2_of_bytes {s : State} {a : Nat} {hi lo : Byte} (hhi : s.memRead1 a = some hi)
    (hlo : s.memRead1 (a + 1) = some lo) : s.memRead2 a = some (wordOfBytes hi lo) := by
  rw [State.memRead2, hhi, hlo]

section
variable {s : State} {hi lo : Byte} (hclear : s.fault = .clear)
  (hhi : s.memRead1 s.pc.toNat = some hi) (hlo : s.memRead1 (s.pc.toNat + 1) = some lo)
include hclear hhi hlo

theorem State.traceRecord_of_bytes :
    s.traceRecord = some ⟨wordOfBytes hi lo, hi, lo, s.pc, s.sp⟩ := by
  rw [State.traceRecord, if_neg (not_not_intro hclear), hhi, hlo]

theorem step_of_bytes : step s = exec (decodeWord (wordOfBytes hi lo)) s := by
  rw [step_of_clear hclear, State.fetch, State.memRead2_of_bytes hhi hlo]

end

theorem step_of_pc_gt {s : State} (hclear : s.fault = .clear) (hpc : 0xFFE < s.pc.toNat) :
    step s = .next { s with fault := .fetchOutOfRange } := by
  rw [step_of_fetch_none hclear (State.fetch_of_gt hpc), State.raise_of_clear hclear]
  rfl

/-- Settles O11: a faulted machine, a `PC` beyond the last word, and a fetch. -/
theorem tickProcedure : Obligations.TickProcedure := by
  refine fun s => ⟨fun hf => ⟨step_of_faulted hf, State.traceRecord_of_faulted hf⟩,
    fun hclear hpc => ⟨step_of_pc_gt hclear hpc, State.traceRecord_of_gt hpc⟩, fun hclear hpc => ?_⟩
  have hhi := s.memRead1_of_lt (a := s.pc.toNat) (by omega)
  have hlo := s.memRead1_of_lt (a := s.pc.toNat + 1) (by omega)
  exact ⟨_, _, _, State.memRead2_of_bytes hhi hlo, hhi, hlo, wordOfBytes_toNat _ _,
    State.traceRecord_of_bytes hclear hhi hlo, step_of_bytes hclear hhi hlo⟩

/-- Settles O12: the instruction two bytes decode to is that of their word (R52). -/
theorem stepRunsDecodedInstruction : Obligations.StepRunsDecodedInstruction := by
  intro s i hi lo hclear _ hhi hlo hdecode
  have hi_eq : decodeWord (wordOfBytes hi lo) = i := congrArg Prod.fst (Except.ok.inj hdecode)
  rw [step_of_bytes hclear hhi hlo, hi_eq]

end Sys2Proof.Machine
end

section
/-! Control flow (R65 to R75): where each instruction leaves `PC`, what the jumps, the skips, `CALL` and
`RETURN` leave unchanged, and a run that has ended on a self-jump (R77, R135). -/

namespace Sys2Proof.Machine

open Sys2Proof

/-! ### Where `PC` lands (R65, R68, R74) -/

theorem zext16_toNat (nnn : Addr) : (zext16 nnn).toNat = nnn.toNat := by
  rw [zext16, BitVec.toNat_setWidth]
  omega

theorem State.offsetTarget_toNat (s : State) (nnn : Addr) :
    (s.offsetTarget nnn).toNat = nnn.toNat + (s.reg 0).toNat := by
  rw [State.offsetTarget, BitVec.toNat_add, zext16_toNat, BitVec.toNat_setWidth]
  omega

theorem State.advance_advanced (s : State) (k : Nat) : Advanced k s (s.advance k) := by
  rw [Advanced, State.advance_pc, BitVec.toNat_add, BitVec.toNat_ofNat, Nat.add_mod_mod]

theorem State.skipIf_eq_advance (s : State) (c : Bool) :
    s.skipIf c = s.advance (if c then 4 else 2) := by
  cases c <;> rfl

theorem State.skipIf_pc_toNat (s : State) (c : Bool) :
    (s.skipIf c).pc.toNat = (s.pc.toNat + if c then 4 else 2) % 65536 := by
  rw [State.skipIf_eq_advance]
  exact s.advance_advanced _

/-! ### What a write of `PC` leaves unchanged -/

theorem State.setPc_frame (s : State) (w : Word) :
    SameRegsBut [] s (s.setPc w) ∧ SameBesidesRegsPc s (s.setPc w) :=
  ⟨fun _ _ => rfl, ⟨rfl, rfl, rfl, fun _ => rfl, rfl⟩, ⟨rfl, rfl, rfl, rfl⟩, rfl, rfl⟩

theorem State.skipIf_frame (s : State) (c : Bool) :
    SameRegsBut [] s (s.skipIf c) ∧ SameBesidesRegsPc s (s.skipIf c) := by
  rw [State.skipIf_eq_advance]
  exact s.setPc_frame _

/-! ### Instructions that write `PC` alone -/

/-- Settles O18: the advance, and the frame of a write of `PC`. -/
theorem nopOnlyAdvances : Obligations.NopOnlyAdvances :=
  fun _ s => ⟨s.advance 2, rfl, s.advance_advanced 2, s.setPc_frame _⟩

/-- Settles O21: the target as a number, and the frame of a write of `PC`. -/
theorem jumpLandsOnTarget : Obligations.JumpLandsOnTarget :=
  fun nnn s => ⟨s.setPc (zext16 nnn), rfl, zext16_toNat nnn, s.setPc_frame _⟩

/-- Settles O25: the sum is below 65536, so it is not wrapped. -/
theorem offsetJumpLandsOnSum : Obligations.OffsetJumpLandsOnSum :=
  fun nnn s => ⟨s.setPc (s.offsetTarget nnn), rfl, s.offsetTarget_toNat nnn, s.setPc_frame _⟩

/-- What a skip on `c` answers, `P` being when it is taken and `Q` when it is not. -/
theorem State.skipIf_answer {P Q : Prop} {c : Bool} (s : State) (hP : P → c = true)
    (hQ : Q → c = false) : ∃ t, (.next (s.skipIf c) : Answer) = .next t ∧
      (P → Advanced 4 s t) ∧ (Q → Advanced 2 s t) ∧ SameRegsBut [] s t ∧ SameBesidesRegsPc s t :=
  ⟨s.skipIf c, rfl, fun h => hP h ▸ s.advance_advanced 4, fun h => hQ h ▸ s.advance_advanced 2,
    s.skipIf_frame c⟩

/-- Settles O24: each of the four tests decides its condition. -/
theorem skipsAdvance : Obligations.SkipsAdvance :=
  ⟨fun _ _ s => s.skipIf_answer beq_iff_eq.mpr beq_eq_false_iff_ne.mpr,
    fun _ _ s => s.skipIf_answer bne_iff_ne.mpr bne_eq_false_iff_eq.mpr,
    fun _ _ s => s.skipIf_answer beq_iff_eq.mpr beq_eq_false_iff_ne.mpr,
    fun _ _ s => s.skipIf_answer bne_iff_ne.mpr bne_eq_false_iff_eq.mpr⟩

/-! ### The call stack (R19, R20, R67, R69) -/

/-- `RETURN` pops the entry below `SP`, and leaves it on the stack. -/
theorem execRet_of_entry {s : State} {k : Nat} (hk : k < 16) (hsp : s.sp.toNat = k + 1) :
    execRet s = .next (s.dropTop.setPc s.stack[k]) := by
  rw [execRet_of_live (by omega) (by omega)]
  simp only [hsp, Nat.add_sub_cancel]

theorem State.dropTop_sp_toNat {s : State} {k : Nat} (hsp : s.sp.toNat = k + 1) :
    s.dropTop.sp.toNat = k := by
  rw [State.dropTop_sp]
  bv_omega

theorem State.push_sp_toNat {s : State} (hroom : s.sp.toNat < 16) (w : Word) :
    (s.push w).sp.toNat = s.sp.toNat + 1 := by
  rw [State.push_sp]
  bv_omega

theorem State.push_stack_top {s : State} (hroom : s.sp.toNat < 16) (w : Word) :
    (s.push w).stack[s.sp.toNat] = w :=
  Vector.getElem_setIfInBounds_self hroom

/-- The entry a `CALL` pushes is the address after itself (R69). -/
theorem State.push_returnAddress {s : State} (hroom : s.sp.toNat < 16) :
    (s.push (s.pc + 2)).stack[s.sp.toNat].toNat = (s.pc.toNat + 2) % 65536 := by
  rw [State.push_stack_top hroom]
  exact s.advance_advanced 2

theorem State.push_stack_ne {s : State} {k : Nat} (hk : k < 16) (hne : k ≠ s.sp.toNat) (w : Word) :
    (s.push w).stack[k] = s.stack[k] :=
  Vector.getElem_setIfInBounds_ne hk hne.symm

/-- Settles O19: an empty stack, and one whose last entry is entry `k`. -/
theorem returnPopsOrUnderflows : Obligations.ReturnPopsOrUnderflows := fun _ =>
  ⟨fun hempty => ⟨_, execRet_of_empty (BitVec.eq_of_toNat_eq hempty), rfl⟩,
    fun _ hk hsp => ⟨_, execRet_of_entry hk hsp, State.dropTop_sp_toNat hsp, rfl, rfl,
      fun _ _ => rfl, ⟨rfl, rfl, rfl, fun _ => rfl, rfl⟩, rfl, rfl, rfl, rfl⟩⟩

/-- Settles O22: a full stack, and one with room for the address after the `CALL`. -/
theorem callPushesOrOverflows : Obligations.CallPushesOrOverflows := fun nnn s =>
  ⟨fun hfull => ⟨_, execCall_of_full hfull nnn, rfl⟩,
    fun hroom => ⟨_, execCall_of_room hroom nnn, State.push_returnAddress hroom,
      fun _ hk hne => State.push_stack_ne hk hne _, State.push_sp_toNat hroom (s.pc + 2),
      zext16_toNat nnn, fun _ _ => rfl, ⟨rfl, rfl, rfl, fun _ => rfl, rfl⟩, rfl, rfl, rfl, rfl⟩⟩

/-- Settles O23: the entry `RETURN` pops is the one the `CALL` pushed. -/
theorem callThenReturnResumes : Obligations.CallThenReturnResumes := fun nnn s hroom =>
  ⟨_, _, execCall_of_room hroom nnn, execRet_of_entry hroom (State.push_sp_toNat hroom (s.pc + 2)),
    State.push_returnAddress hroom, BitVec.add_sub_cancel s.sp 1, fun _ _ => rfl, rfl⟩

/-! ### Every instruction (R65) -/

/-- An instruction that changes the latch leaves `PC` where it was. -/
theorem Effect.pc_eq_of_fault_ne {s t : State} {i : Instr} (e : Effect s i t)
    (h : t.fault ≠ s.fault) : t.pc = s.pc := by
  cases e with
  | faults => rfl
  | _ => exact (h rfl).elim

theorem execRet_pc {s t : State} (h : execRet s = .next t) (hclear : t.fault = .clear) :
    t.pc.toNat = s.pcAfter .ret := by
  rcases Nat.lt_or_ge 16 s.sp.toNat with habsent | h16
  · rw [execRet_of_absent habsent] at h
    cases h
  cases hsp : s.sp.toNat with
  | zero =>
    rw [execRet_of_empty (BitVec.eq_of_toNat_eq hsp)] at h
    cases h
    exact absurd hclear (s.raise_fault_ne_clear _)
  | succ k =>
    have hk : k < 16 := by omega
    rw [execRet_of_entry hk hsp] at h
    cases h
    rw [State.pcAfter, hsp, State.stackEntry, Nat.add_sub_cancel, Vector.getElem?_eq_getElem hk]
    rfl

theorem execCall_pc {s t : State} {nnn : Addr} (h : execCall nnn s = .next t)
    (hclear : t.fault = .clear) : t.pc.toNat = nnn.toNat := by
  rcases Nat.lt_or_ge s.sp.toNat 16 with hroom | hfull
  · rw [execCall_of_room hroom] at h
    cases h
    exact zext16_toNat nnn
  · rw [execCall_of_full hfull] at h
    cases h
    exact absurd hclear (s.raise_fault_ne_clear _)

theorem execDraw_advanced {s t : State} {x y : Reg} {n : Nibble} (h : execDraw x y n s = .next t)
    (hclear : t.fault = .clear) : Advanced 2 s t := by
  cases hrange : s.spriteOutOfRange n with
  | false =>
    rw [execDraw_of_inRange hrange] at h
    cases h
    exact s.advance_advanced 2
  | true =>
    rw [execDraw_of_outOfRange hrange] at h
    cases h
    exact absurd hclear (s.raise_fault_ne_clear _)

theorem unrecognised_advanced {s t : State} {w : Word} (h : unrecognised w s = .next t)
    (hclear : t.fault = .clear) : Advanced 2 s t := by
  cases hstrict : s.params.strictUnimpl with
  | false =>
    rw [unrecognised_of_lenient hstrict] at h
    cases h
    exact s.advance_advanced 2
  | true =>
    rw [unrecognised_of_strict hstrict] at h
    cases h
    exact absurd hclear (s.raise_fault_ne_clear _)

/-- Where an instruction that completes leaves `PC`, by cases on the instruction. -/
theorem exec_pc {i : Instr} {s t : State} (h : exec i s = .next t) (hclear : t.fault = .clear) :
    t.pc.toNat = s.pcAfter i := by
  cases i with
  | ret => exact execRet_pc h hclear
  | call => exact execCall_pc h hclear
  | jp nnn => cases h; exact zext16_toNat nnn
  | jpV0 nnn => cases h; exact s.offsetTarget_toNat nnn
  | seImm | seReg =>
    cases h
    rw [State.skipIf_pc_toNat, State.pcAfter]
    simp only [beq_iff_eq]
  | sneImm | sneReg =>
    cases h
    rw [State.skipIf_pc_toNat, State.pcAfter]
    simp only [bne_iff_ne, ite_not]
  | draw => exact execDraw_advanced h hclear
  | unrecognisedU5 | unrecognisedU8 | unrecognisedU9 | unrecognisedUE | unrecognisedUF =>
    exact unrecognised_advanced h hclear
  | _ => cases h; exact s.advance_advanced 2

/-- Settles O26: where a completed instruction leaves `PC`, and a changed latch as the one mark of a fault. -/
theorem pcChangesInThreeWays : Obligations.PcChangesInThreeWays := fun _ _ _ hs h =>
  ⟨exec_pc h, fun hfault => (exec_effect h).pc_eq_of_fault_ne (hs ▸ hfault)⟩

/-! ### A run that has ended (R77, R135) -/

theorem step_of_fetch {s : State} {w : Word} (hclear : s.fault = .clear) (hw : s.fetch = some w) :
    step s = exec (decodeWord w) s := by
  rw [step_of_clear hclear, hw]

/-- A jump to the address it stands at changes nothing. -/
theorem step_of_ended {s : State} (h : s.Ended) : step s = .next s := by
  obtain ⟨hclear, w, hw, ⟨nnn, hjump, hpc⟩ | ⟨nnn, hjump, hpc⟩⟩ := h
  · calc step s
      _ = execJp nnn s := by rw [step_of_fetch hclear hw, hjump]; rfl
      _ = .next s := by rw [execJp, ← hpc]; rfl
  · calc step s
      _ = execJpV0 nnn s := by rw [step_of_fetch hclear hw, hjump]; rfl
      _ = .next s := by rw [execJpV0, ← hpc]; rfl

/-- On any machine, a state that steps to itself is where every run from it stands. -/
theorem run_of_step_eq_self {M : Host.Core} {s : M.State} (h : M.step s = .next s) (k : Nat) :
    M.run k s = .next s := by
  induction k with
  | zero => rfl
  | succ k ih =>
    rw [Host.Core.run, h]
    exact ih

/-- Settles O27: a step of the ended run answers the same state, so any number does. -/
theorem endedRunStaysPut : Obligations.EndedRunStaysPut :=
  fun _ k h => run_of_step_eq_self (M := Sys2Proof.core) (step_of_ended h) k

end Sys2Proof.Machine
end

section
/-! Data movement and ALU (R80 to R92): the value each instruction leaves in its destination and in `VF`,
what it leaves unchanged, and the two readings of a result statement (R79, D7). -/

namespace Sys2Proof.Machine

open Sys2Proof

/-! ### Bytes as numbers -/

theorem byte_sub_toNat (a b : Byte) : (a - b).toNat = (a.toNat + 256 - b.toNat) % 256 := by
  rw [BitVec.toNat_sub]
  omega

theorem byte_shiftRight_one_toNat (a : Byte) : (a >>> 1).toNat = a.toNat / 2 := by
  rw [BitVec.toNat_ushiftRight, Nat.shiftRight_one]

theorem byte_shiftLeft_one_toNat (a : Byte) : (a <<< 1).toNat = a.toNat * 2 % 256 := by
  rw [BitVec.toNat_shiftLeft, Nat.shiftLeft_eq]

/-! ### Flags as numbers (R78) -/

theorem flagByte_toNat (f : Bool) : (flagByte f).toNat = f.toNat := by
  cases f <;> rfl

theorem flagByte_decide_toNat (p : Prop) [Decidable p] :
    (flagByte (decide p)).toNat = if p then 1 else 0 := by
  by_cases hp : p <;> simp [flagByte, hp]

theorem flagByte_shiftedOutRight_toNat (a : Byte) :
    (flagByte (shiftedOutRight a)).toNat = a.toNat % 2 := by
  rw [flagByte_toNat, shiftedOutRight, BitVec.getLsbD, Nat.toNat_testBit, pow_zero, Nat.div_one]

theorem flagByte_shiftedOutLeft_toNat (a : Byte) :
    (flagByte (shiftedOutLeft a)).toNat = a.toNat / 128 := by
  rw [flagByte_toNat, shiftedOutLeft, BitVec.getLsbD, Nat.toNat_testBit]
  omega

/-! ### A destination and no flag (R80 to R85, R91, R92) -/

@[simp] theorem State.reg_loadReg_self (s : State) (x : Reg) (b : Byte) :
    (s.loadReg x b).reg x = b :=
  s.reg_setReg_self x b

theorem State.loadReg_frame (s : State) (x : Reg) (b : Byte) :
    SameRegsBut [x] s (s.loadReg x b) ∧ Advanced 2 s (s.loadReg x b) ∧
      SameBesidesRegsPc s (s.loadReg x b) :=
  ⟨fun r hr => s.reg_setReg_ne x r b (List.ne_of_not_mem_cons hr), s.advance_advanced 2,
    ⟨rfl, rfl, rfl, fun _ => rfl, rfl⟩, ⟨rfl, rfl, rfl, rfl⟩, rfl, rfl⟩

/-- Settles O28: both loads are one write of `Vx`. -/
theorem loadsWriteDestination : Obligations.LoadsWriteDestination :=
  ⟨fun x kk s => ⟨s.loadReg x kk, rfl, s.reg_loadReg_self x kk, s.loadReg_frame x kk⟩,
    fun x y s => ⟨s.loadReg x (s.reg y), rfl, s.reg_loadReg_self x _, s.loadReg_frame x _⟩⟩

/-- Settles O29: the sum of bytes is the sum modulo 256. -/
theorem addImmediateWraps : Obligations.AddImmediateWraps := fun x kk s =>
  ⟨s.loadReg x (s.reg x + kk), rfl, by rw [State.reg_loadReg_self, BitVec.toNat_add],
    s.loadReg_frame x _⟩

/-- Settles O30: each operation, read at bit `k`. -/
theorem logicalOperations : Obligations.LogicalOperations :=
  ⟨fun x _ s => ⟨s.loadReg x _, rfl,
      fun _ => by rw [State.reg_loadReg_self, BitVec.getLsbD_or], s.loadReg_frame x _⟩,
    fun x _ s => ⟨s.loadReg x _, rfl,
      fun _ => by rw [State.reg_loadReg_self, BitVec.getLsbD_and], s.loadReg_frame x _⟩,
    fun x _ s => ⟨s.loadReg x _, rfl,
      fun _ => by rw [State.reg_loadReg_self, BitVec.getLsbD_xor], s.loadReg_frame x _⟩⟩

/-- Settles O36: the zero-extended address is the same number. -/
theorem loadIndexRegister : Obligations.LoadIndexRegister := fun nnn s =>
  ⟨(s.setI (zext16 nnn)).advance 2, rfl, zext16_toNat nnn, fun _ _ => rfl, s.advance_advanced 2,
    ⟨rfl, rfl, rfl, fun _ => rfl, rfl⟩, rfl, rfl, rfl, rfl, rfl⟩

theorem and_mask_and_not_mask (b mask : Byte) : b &&& mask &&& ~~~mask = 0 := by
  rw [BitVec.and_assoc, BitVec.and_not_self]
  exact BitVec.and_zero

/-- Settles O37: the frame is that of the write of `Vx` after the draw is counted. -/
theorem randomUnderMask : Obligations.RandomUnderMask := by
  intro x kk s
  obtain ⟨hregs, hadvanced, houtside, hspecials, hfb, hdraws⟩ :=
    s.consumeDraw.loadReg_frame x (s.rndByte &&& kk)
  have hreg := s.consumeDraw.reg_loadReg_self x (s.rndByte &&& kk)
  exact ⟨_, rfl, hreg, by rw [hreg, and_mask_and_not_mask], hdraws, hregs, hadvanced, houtside,
    hspecials, hfb⟩

/-! ### A flag, then the destination (R79, R86 to R90) -/

section

variable (s : State) (c : Bool) (x : Reg) (g : State → Byte)

theorem State.reg_flagThenResult_self :
    (s.flagThenResult c x g).reg x = g (s.resultSource (s.setVF c)) := by
  rw [State.reg_flagThenResult, if_pos rfl]

theorem State.reg_flagThenResult_vf (hx : x ≠ 15) :
    (s.flagThenResult c x g).reg 15 = flagByte c := by
  rw [State.reg_flagThenResult, if_neg hx.symm, if_pos rfl]

theorem State.flagThenResult_frame :
    SameRegsBut [x, 15] s (s.flagThenResult c x g) ∧ Advanced 2 s (s.flagThenResult c x g) ∧
      SameBesidesRegsPc s (s.flagThenResult c x g) := by
  refine ⟨fun r hr => ?_, s.advance_advanced 2, ⟨rfl, rfl, rfl, fun _ => rfl, rfl⟩,
    ⟨rfl, rfl, rfl, rfl⟩, rfl, rfl⟩
  rw [State.reg_flagThenResult, if_neg (List.ne_of_not_mem_cons hr),
    if_neg (List.ne_of_not_mem_cons (List.not_mem_of_not_mem_cons hr))]

end

/-- Settles O31: the result is read off the operands of before, whatever the order of the statements. -/
theorem addRegistersCarries : Obligations.AddRegistersCarries := by
  intro x y s
  refine ⟨s.flagThenResult (carryOut (s.reg x) (s.reg y)) x fun _ => s.reg x + s.reg y, rfl, ?_,
    fun hx => ?_, s.flagThenResult_frame ..⟩
  · rw [State.reg_flagThenResult_self, BitVec.toNat_add]
  · rw [State.reg_flagThenResult_vf _ _ _ _ hx, carryOut, flagByte_decide_toNat]

/-! ### The result under the sequential reading (R79, R87 to R90) -/

section

variable {s : State} (hseq : s.params.vfAliasOrder = .sequential)
include hseq

theorem State.reg_flagThenResult_sequential (c : Bool) (x : Reg) (g : State → Byte) :
    (s.flagThenResult c x g).reg x = g (s.setVF c) := by
  rw [State.reg_flagThenResult_self, State.resultSource_sequential _ _ hseq]

/-- An operand that is `VF` is the flag just written; every other is as before. -/
theorem State.difference_sequential {c : Bool} {f : Nat} (hflag : (flagByte c).toNat = f)
    (x m n : Reg) :
    ((s.flagThenResult c x fun r => r.reg m - r.reg n).reg x).toNat =
      ((if m = 15 then f else (s.reg m).toNat) + 256 -
        (if n = 15 then f else (s.reg n).toNat)) % 256 := by
  rw [State.reg_flagThenResult_sequential hseq, byte_sub_toNat, State.reg_setVF, State.reg_setVF,
    apply_ite BitVec.toNat, apply_ite BitVec.toNat, hflag]

/-- What a subtraction `V[m] - V[n]` into `V[x]` answers, by which of its operands is `VF`. -/
theorem State.difference_answer {c : Bool} {f : Nat} (hflag : (flagByte c).toNat = f)
    (x m n : Reg) :
    ∃ t, (.next (s.flagThenResult c x fun r => r.reg m - r.reg n) : Answer) = .next t ∧
      (x ≠ 15 → (t.reg 15).toNat = f) ∧
      (m ≠ 15 → n ≠ 15 → (t.reg x).toNat = ((s.reg m).toNat + 256 - (s.reg n).toNat) % 256) ∧
      (m = 15 → n ≠ 15 → (t.reg x).toNat = (f + 256 - (s.reg n).toNat) % 256) ∧
      (m ≠ 15 → n = 15 → (t.reg x).toNat = ((s.reg m).toNat + 256 - f) % 256) ∧
      (m = 15 → n = 15 → (t.reg x).toNat = 0) ∧
      SameRegsBut [x, 15] s t ∧ Advanced 2 s t ∧ SameBesidesRegsPc s t := by
  have hresult := State.difference_sequential hseq hflag x m n
  refine ⟨_, rfl, fun hx => ?_, fun hm hn => ?_, fun hm hn => ?_, fun hm hn => ?_,
    fun hm hn => ?_, s.flagThenResult_frame ..⟩
  · rw [State.reg_flagThenResult_vf _ _ _ _ hx, hflag]
  · rw [hresult, if_neg hm, if_neg hn]
  · rw [hresult, if_pos hm, if_neg hn]
  · rw [hresult, if_neg hm, if_pos hn]
  · rw [hresult, if_pos hm, if_pos hn, Nat.add_sub_cancel_left]

theorem State.shifted_sequential (shift : Byte → Byte) (c : Bool) (x : Reg) :
    (s.flagThenResult c x fun r => shift (r.reg x)).reg x =
      shift (if x = 15 then flagByte c else s.reg x) := by
  rw [State.reg_flagThenResult_sequential hseq, State.reg_setVF]

end

/-- Settles O32: the minuend is `Vx`. -/
theorem subtractSequential : Obligations.SubtractSequential := fun x y _ _ hseq hf =>
  State.difference_answer hseq (hf ▸ flagByte_decide_toNat _) x x y

/-- Settles O33: the minuend is `Vy`, so the cases on `x` and `y` change places. -/
theorem subtractReversedSequential : Obligations.SubtractReversedSequential := by
  intro x y s f hseq hf
  obtain ⟨t, ht, hvf, hneither, hminuend, hsubtrahend, hboth, hframe⟩ :=
    State.difference_answer hseq (c := noBorrow (s.reg y) (s.reg x)) (hf ▸ flagByte_decide_toNat _)
      x y x
  exact ⟨t, ht, hvf, fun hx hy => hneither hy hx, fun hx hy => hsubtrahend hy hx,
    fun hx hy => hminuend hy hx, fun hx hy => hboth hy hx, hframe⟩

/-- Settles O34: with `x` = F the bit shifted out is itself shifted. -/
theorem shiftsSequential : Obligations.ShiftsSequential := by
  refine ⟨fun x y s hseq => ?_, fun x y s hseq => ?_⟩
  · have hresult := State.shifted_sequential hseq (· >>> 1) (shiftedOutRight (s.reg x)) x
    refine ⟨_, rfl, fun hx => ⟨?_, ?_⟩, fun hx => ?_, s.flagThenResult_frame ..⟩
    · rw [hresult, if_neg hx, byte_shiftRight_one_toNat]
    · rw [State.reg_flagThenResult_vf _ _ _ _ hx, flagByte_shiftedOutRight_toNat]
    · rw [hresult, if_pos hx, byte_shiftRight_one_toNat, flagByte_shiftedOutRight_toNat]
      omega
  · have hresult := State.shifted_sequential hseq (· <<< 1) (shiftedOutLeft (s.reg x)) x
    refine ⟨_, rfl, fun hx => ⟨?_, ?_⟩, fun hx => ?_, s.flagThenResult_frame ..⟩
    · rw [hresult, if_neg hx, byte_shiftLeft_one_toNat]
    · rw [State.reg_flagThenResult_vf _ _ _ _ hx, flagByte_shiftedOutLeft_toNat]
    · rw [hresult, if_pos hx, byte_shiftLeft_one_toNat, flagByte_shiftedOutLeft_toNat]
      omega

/-! ### The result under the latched reading (D7; log entry 3) -/

theorem State.reg_flagThenResult_latched {s : State} (hlatched : s.params.vfAliasOrder = .latched)
    (c : Bool) (x : Reg) (g : State → Byte) : (s.flagThenResult c x g).reg x = g s := by
  rw [State.reg_flagThenResult_self, State.resultSource_latched _ _ hlatched]

/-- Settles O35: each result is that of the state before the flag. -/
theorem latchedResults : Obligations.LatchedResults := by
  intro x y s hlatched
  refine ⟨⟨_, rfl, ?_, s.flagThenResult_frame ..⟩, ⟨_, rfl, ?_, s.flagThenResult_frame ..⟩,
    ⟨_, rfl, ?_, s.flagThenResult_frame ..⟩, ⟨_, rfl, ?_, s.flagThenResult_frame ..⟩⟩
  · rw [State.reg_flagThenResult_latched hlatched, byte_sub_toNat]
  · rw [State.reg_flagThenResult_latched hlatched, byte_sub_toNat]
  · rw [State.reg_flagThenResult_latched hlatched, byte_shiftRight_one_toNat]
  · rw [State.reg_flagThenResult_latched hlatched, byte_shiftLeft_one_toNat]

end Sys2Proof.Machine
end

section
/-! The display (R94 to R98): the loop of `DRAW` in closed form, one XOR with the cells of the sprite,
and what `CLS` and `DRAW` leave unchanged. -/

namespace Sys2Proof.Machine

open Sys2Proof

/-- Settles O39: every cell of the blank buffer is false, and nothing but it and `PC` is written. -/
theorem clearScreen : Obligations.ClearScreen := fun s =>
  ⟨(s.setFb FrameBuffer.blank).advance 2, rfl, FrameBuffer.cell_blank, fun _ _ => rfl,
    s.advance_advanced 2, ⟨rfl, rfl, rfl, fun _ => rfl, rfl⟩, ⟨rfl, rfl, rfl, rfl⟩, rfl⟩

/-! ### A drawing that is one XOR with a set of cells -/

/-- `e` is `d` with the cells of `S` toggled, and its collision is that of `d` or of a cell of `S` that
was set in `d`. -/
structure Drawing.XorBy (d : Drawing) (S : Fin 64 → Fin 32 → Bool) (e : Drawing) : Prop where
  cell : ∀ cx cy, FrameBuffer.cell e.fb cx cy = (FrameBuffer.cell d.fb cx cy ^^ S cx cy)
  hit : e.hit = true ↔
    d.hit = true ∨ ∃ cx cy, FrameBuffer.cell d.fb cx cy = true ∧ S cx cy = true

theorem Drawing.XorBy.of_empty (d : Drawing) {S : Fin 64 → Fin 32 → Bool}
    (hS : ∀ cx cy, S cx cy = false) : d.XorBy S d :=
  ⟨fun cx cy => by rw [hS, Bool.xor_false], by simp [hS]⟩

/-- XOR with one set of cells and then with a disjoint one is XOR with their union: no cell is visited
twice (R97). -/
theorem Drawing.XorBy.trans {d e f : Drawing} {S T U : Fin 64 → Fin 32 → Bool}
    (hde : d.XorBy S e) (hef : e.XorBy T f)
    (hdisjoint : ∀ cx cy, S cx cy = true → T cx cy = false)
    (hunion : ∀ cx cy, U cx cy = (S cx cy || T cx cy)) : d.XorBy U f := by
  refine ⟨fun cx cy => ?_, ?_⟩
  · rw [hef.cell, hde.cell, hunion]
    cases hS : S cx cy with
    | false => rw [Bool.xor_false, Bool.false_or]
    | true => rw [hdisjoint cx cy hS, Bool.xor_false, Bool.true_or]
  · have hcell : ∀ cx cy, (FrameBuffer.cell e.fb cx cy = true ∧ T cx cy = true) ↔
        FrameBuffer.cell d.fb cx cy = true ∧ T cx cy = true := by
      intro cx cy
      rw [hde.cell]
      cases hS : S cx cy with
      | false => rw [Bool.xor_false]
      | true => simp [hdisjoint cx cy hS]
    simp only [hef.hit, hde.hit, hcell, hunion, Bool.or_eq_true, and_or_left, exists_or, or_assoc]

/-! ### Which sprite bit falls on a cell (R94, R97) -/

/-- The sprite column that falls on a column of the buffer. -/
def spriteColumn (px : Byte) (cx : Fin 64) : Nat := (((cx.val : Int) - px.toNat) % 64).toNat

/-- The sprite row that falls on a row of the buffer. -/
def spriteRow (py : Byte) (cy : Fin 32) : Nat := (((cy.val : Int) - py.toNat) % 32).toNat

theorem eq_wrapColumn_iff {col : Nat} (hcol : col < 64) (px : Byte) (cx : Fin 64) :
    cx = wrapColumn px col ↔ spriteColumn px cx = col := by
  rw [Fin.ext_iff, wrapColumn, Fin.val_ofNat, spriteColumn]
  omega

theorem eq_wrapRow_iff {row : Nat} (hrow : row < 32) (py : Byte) (cy : Fin 32) :
    cy = wrapRow py row ↔ spriteRow py cy = row := by
  rw [Fin.ext_iff, wrapRow, Fin.val_ofNat, spriteRow]
  omega

/-- The cells of one sprite bit. -/
def bitTouches (px py : Byte) (row col : Nat) (bit : Bool) (cx : Fin 64) (cy : Fin 32) : Bool :=
  bit && (decide (spriteColumn px cx = col) && decide (spriteRow py cy = row))

/-- The cells of the first `k` columns of one sprite row. -/
def rowTouches (px py : Byte) (row : Nat) (b : Byte) (k : Nat) (cx : Fin 64) (cy : Fin 32) : Bool :=
  decide (spriteRow py cy = row) && decide (spriteColumn px cx < k) &&
    b.getLsbD (7 - spriteColumn px cx)

/-- The cells of sprite rows, the first being sprite row `row`. -/
def rowsTouch (px py : Byte) (row : Nat) (bs : List Byte) (cx : Fin 64) (cy : Fin 32) : Bool :=
  decide (row ≤ spriteRow py cy) && decide (spriteColumn px cx < 8) &&
    (bs.getD (spriteRow py cy - row) 0).getLsbD (7 - spriteColumn px cx)

/-! ### The loop, from the bit to the sprite (R96) -/

theorem drawBit_xorBy {row col : Nat} (hrow : row < 32) (hcol : col < 64) (px py : Byte) (bit : Bool)
    (d : Drawing) : d.XorBy (bitTouches px py row col bit) (drawBit px py row col bit d) := by
  cases bit with
  | false => exact .of_empty d fun _ _ => rfl
  | true =>
    refine ⟨fun cx cy => ?_, ?_⟩
    · simp only [drawBit, if_true, FrameBuffer.cell_toggle, bitTouches, eq_wrapColumn_iff hcol,
        eq_wrapRow_iff hrow, Bool.true_and]
    · simp [drawBit, bitTouches, ← eq_wrapColumn_iff hcol, ← eq_wrapRow_iff hrow]

theorem drawColumns_xorBy {row : Nat} (hrow : row < 32) (px py b : Byte) (d : Drawing) {k : Nat}
    (hk : k ≤ 64) :
    d.XorBy (rowTouches px py row b k)
      ((List.range k).foldl (fun acc col => drawBit px py row col (b.getLsbD (7 - col)) acc) d) := by
  induction k with
  | zero => exact .of_empty d fun _ _ => by simp [rowTouches]
  | succ k ih =>
    rw [List.range_succ, List.foldl_append]
    refine (ih (by omega)).trans (drawBit_xorBy hrow (by omega) px py _ _) (fun cx cy => ?_)
      (fun cx cy => ?_)
    · simp only [rowTouches, bitTouches, Bool.and_eq_true, decide_eq_true_eq]
      rintro ⟨⟨-, hlt⟩, -⟩
      simp [hlt.ne]
    · rw [rowTouches, rowTouches, bitTouches]
      rcases lt_trichotomy (spriteColumn px cx) k with hlt | rfl | hgt
      · simp [hlt, hlt.ne, Nat.lt_succ_of_lt hlt]
      · simp [Bool.and_comm]
      · simp [hgt.ne', hgt.not_gt, show ¬ spriteColumn px cx < k + 1 by omega]

theorem drawRow_xorBy {row : Nat} (hrow : row < 32) (px py b : Byte) (d : Drawing) :
    d.XorBy (rowTouches px py row b 8) (drawRow px py row b d) :=
  drawColumns_xorBy hrow px py b d (by decide)

theorem drawRows_xorBy (px py : Byte) {row : Nat} {bs : List Byte} (hrows : row + bs.length ≤ 32)
    (d : Drawing) : d.XorBy (rowsTouch px py row bs) (drawRows px py row bs d) := by
  induction bs generalizing row d with
  | nil => exact .of_empty d fun _ _ => by simp [rowsTouch]
  | cons b bs ih =>
    rw [List.length_cons] at hrows
    refine (drawRow_xorBy (by omega) px py b d).trans (ih (by omega) _) (fun cx cy => ?_)
      (fun cx cy => ?_)
    · simp only [rowTouches, rowsTouch, Bool.and_eq_true, decide_eq_true_eq]
      rintro ⟨⟨heq, -⟩, -⟩
      simp [heq]
    · rw [rowsTouch, rowTouches, rowsTouch]
      rcases lt_trichotomy (spriteRow py cy) row with hlt | rfl | hgt
      · simp [hlt.ne, hlt.not_ge, show ¬ row + 1 ≤ spriteRow py cy by omega]
      · simp
      · obtain ⟨k, hk⟩ := Nat.exists_eq_add_of_lt hgt
        simp [hk, show row ≤ row + k + 1 by omega, show row + k + 1 ≠ row by omega,
          show row + k + 1 - row = k + 1 by omega, show row + k + 1 - (row + 1) = k by omega]

/-! ### `DRAW` in closed form (R97) -/

/-- A row beyond the sprite reads as the byte 0, which touches nothing. -/
theorem State.spriteRows_getD (s : State) (n : Nibble) (k : Nat) :
    (s.spriteRows n).getD k 0 = if k < n.toNat then Memory.read s.mem (s.i.toNat + k) else 0 := by
  by_cases hk : k < n.toNat <;> simp [State.spriteRows, hk]

theorem State.spriteTouches_eq_rowsTouch (s : State) (x y : Reg) (n : Nibble) :
    s.spriteTouches x y n = rowsTouch (s.reg x) (s.reg y) 0 (s.spriteRows n) := by
  funext cx cy
  have hrow : ((cy.val : Int) - (s.reg y).toNat) % 32 = spriteRow (s.reg y) cy := by
    rw [spriteRow]
    omega
  have hcol : ((cx.val : Int) - (s.reg x).toNat) % 64 = spriteColumn (s.reg x) cx := by
    rw [spriteColumn]
    omega
  rw [State.spriteTouches, rowsTouch, State.spriteRows_getD, hrow, hcol]
  by_cases hin : spriteRow (s.reg y) cy < n.toNat
  · simp [hin]
  · simp [hin]

theorem State.spriteOutOfRange_of_inRange {s : State} {n : Nibble} (h : s.SpriteInRange n) :
    s.spriteOutOfRange n = false := by
  rw [State.SpriteInRange] at h
  rw [← Bool.not_eq_true, State.spriteOutOfRange_iff]
  omega

/-- What a `DRAW` within bounds leaves, whatever its collision and its buffer (R96). -/
def State.drawn (s : State) (hit : Bool) (fb : FrameBuffer) : State :=
  ((s.setVF hit).setFb fb).advance 2

@[simp] theorem State.cell_drawn (s : State) (hit : Bool) (fb : FrameBuffer) (cx : Fin 64)
    (cy : Fin 32) : (s.drawn hit fb).cell cx cy = FrameBuffer.cell fb cx cy := rfl

theorem State.reg_drawn_ne (s : State) (hit : Bool) (fb : FrameBuffer) {r : Reg} (hr : r ≠ 15) :
    (s.drawn hit fb).reg r = s.reg r := s.reg_setReg_ne vf r _ hr

theorem State.reg_drawn_vf (s : State) (hit : Bool) (fb : FrameBuffer) :
    (s.drawn hit fb).reg 15 = flagByte hit := s.reg_setReg_self vf _

theorem flagByte_eq_one_iff (f : Bool) : flagByte f = 1 ↔ f = true := by
  cases f <;> decide

theorem State.reg_drawn_vf_eq_one_iff (s : State) (hit : Bool) (fb : FrameBuffer) :
    (s.drawn hit fb).reg 15 = 1 ↔ hit = true := by
  rw [State.reg_drawn_vf, flagByte_eq_one_iff]

theorem State.reg_drawn_vf_cases (s : State) (hit : Bool) (fb : FrameBuffer) :
    (s.drawn hit fb).reg 15 = 0 ∨ (s.drawn hit fb).reg 15 = 1 := by
  rw [State.reg_drawn_vf]
  cases hit with
  | false => exact .inl rfl
  | true => exact .inr rfl

theorem State.drawn_frame (s : State) (hit : Bool) (fb : FrameBuffer) :
    SameRegsBut [15] s (s.drawn hit fb) ∧ Advanced 2 s (s.drawn hit fb) ∧
      SameOutside s (s.drawn hit fb) ∧ SameSpecials s (s.drawn hit fb) ∧
      (s.drawn hit fb).draws = s.draws :=
  ⟨fun _ hr => s.reg_drawn_ne hit fb (List.ne_of_not_mem_cons hr), s.advance_advanced 2,
    ⟨rfl, rfl, rfl, fun _ => rfl, rfl⟩, ⟨rfl, rfl, rfl, rfl⟩, rfl⟩

/-- What `DRAW` within bounds answers: the collision in `VF`, and the buffer XORed with the sprite. -/
theorem exec_draw_closedForm {s : State} {n : Nibble} (h : s.SpriteInRange n) (x y : Reg) :
    ∃ hit fb, exec (.draw x y n) s = .next (s.drawn hit fb) ∧
      (∀ cx cy, FrameBuffer.cell fb cx cy = (s.cell cx cy ^^ s.spriteTouches x y n cx cy)) ∧
      (hit = true ↔ ∃ cx cy, s.cell cx cy = true ∧ s.spriteTouches x y n cx cy = true) := by
  have hrows : 0 + (s.spriteRows n).length ≤ 32 := by
    rw [State.spriteRows, List.length_map, List.length_range]
    omega
  have hxor := drawRows_xorBy (s.reg x) (s.reg y) hrows ⟨s.fb, false⟩
  rw [← State.spriteTouches_eq_rowsTouch] at hxor
  exact ⟨_, _, execDraw_of_inRange (State.spriteOutOfRange_of_inRange h) x y, hxor.cell,
    hxor.hit.trans (or_iff_right Bool.false_ne_true)⟩

/-- Settles O40: the loop in closed form, and the frame of what a `DRAW` leaves. -/
theorem drawIsXorOfSprite : Obligations.DrawIsXorOfSprite := by
  intro x y n s h
  obtain ⟨hit, fb, hexec, hcell, hhit⟩ := exec_draw_closedForm h x y
  exact ⟨_, hexec, hcell, s.reg_drawn_vf_cases hit fb,
    (s.reg_drawn_vf_eq_one_iff hit fb).trans hhit, s.drawn_frame hit fb⟩

/-! ### The same `DRAW` twice (R97, C5) -/

/-- A `DRAW` with neither coordinate in `VF` leaves the sprite and its place as they were. -/
theorem State.spriteTouches_drawn (s : State) {x y : Reg} (hx : x ≠ 15) (hy : y ≠ 15) (n : Nibble)
    (hit : Bool) (fb : FrameBuffer) :
    (s.drawn hit fb).spriteTouches x y n = s.spriteTouches x y n := by
  funext cx cy
  rw [State.spriteTouches, State.reg_drawn_ne _ _ _ hx, State.reg_drawn_ne _ _ _ hy]
  rfl

/-- Settles O42: the two XORs cancel, and the second collides where the first set a cell. -/
theorem drawTwiceRestores : Obligations.DrawTwiceRestores := by
  intro x y n s hx hy h
  obtain ⟨hit, fb, hfirst, hcell, -⟩ := exec_draw_closedForm h x y
  have hrange : (s.drawn hit fb).SpriteInRange n := h
  obtain ⟨hit', fb', hsecond, hcell', hhit'⟩ := exec_draw_closedForm hrange x y
  simp only [State.cell_drawn, State.spriteTouches_drawn s hx hy, hcell] at hcell' hhit'
  refine ⟨_, _, hfirst, hsecond, fun cx cy => ?_, ?_⟩
  · rw [State.cell_drawn, hcell', Bool.xor_assoc, Bool.xor_self, Bool.xor_false]
  · have hset : ∀ cx cy, ((s.cell cx cy ^^ s.spriteTouches x y n cx cy) = true ∧
        s.spriteTouches x y n cx cy = true) ↔
          s.cell cx cy = false ∧ s.spriteTouches x y n cx cy = true := by
      intro cx cy
      cases s.spriteTouches x y n cx cy with
      | false => simp
      | true => simp
    rw [State.reg_drawn_vf_eq_one_iff, hhit']
    simp only [hset]

end Sys2Proof.Machine
end

section
/-! The five groups of unrecognised words (R99 to R105): one operation on the word decoded. -/

namespace Sys2Proof.Machine

open Sys2Proof

/-- A term of the five groups means `unrecognised` of its own word. -/
theorem exec_eq_unrecognised_encode {x y : Reg} {n : Nibble} {nnn : Addr} {i : Instr}
    (h : i ∈ [Instr.unrecognisedU5 x y n, .unrecognisedU8 x y n, .unrecognisedU9 x y n,
      .unrecognisedUE nnn, .unrecognisedUF nnn]) (s : State) :
    exec i s = unrecognised (encode i) s := by
  simp only [List.mem_cons, List.not_mem_nil, or_false] at h
  obtain rfl | rfl | rfl | rfl | rfl := h
  all_goals rfl

/-- Settles O43: on the lenient machine the one operation is an advance, a write of `PC` alone. -/
theorem unrecognisedIsNoOp : Obligations.UnrecognisedIsNoOp := by
  intro x y n nnn s hlenient i hi
  refine ⟨s.advance 2, ?_, s.advance_advanced 2, s.setPc_frame _⟩
  rw [exec_eq_unrecognised_encode hi, unrecognised_of_lenient hlenient]

end Sys2Proof.Machine
end

section
/-! Timers, keys and the switch `STRICT_UNIMPL`: no `Tick` reads a timer or a key, no recognised
instruction the switch (R129, R100), so the result of a program does not depend on them. -/

namespace Sys2Proof.Machine

open Sys2Proof

/-! ### What an answer becomes -/

@[simp] theorem afterwards_next (f : State → State) (t : State) :
    afterwards f (.next t) = .next (f t) := rfl

/-- Only the next state an answer holds matters. -/
theorem afterwards_congr {f g : State → State} {a : Answer} (h : ∀ t, a = .next t → f t = g t) :
    afterwards f a = afterwards g a := by
  cases a with
  | next t => rw [afterwards_next, afterwards_next, h t rfl]
  | fault r => rfl
  | refused r => rfl

/-! ### Other timers, other keys, another switch

One write of the four elements stands for `UpdateTimers`, `KeyWrite`, `programView` and `setStrict`, so
that every instruction is looked at once. -/

/-- The same machine with these timers, these keys and this `STRICT_UNIMPL`. -/
def State.withOutside (dt st : Byte) (key : Vector Bool 16) (strict : Bool) (s : State) : State :=
  { s with dt := dt, st := st, key := key, params := { s.params with strictUnimpl := strict } }

section

variable (dt st : Byte) (key : Vector Bool 16) (strict : Bool) (s : State)

theorem State.skipIf_withOutside (c : Bool) :
    (s.withOutside dt st key strict).skipIf c = (s.skipIf c).withOutside dt st key strict := by
  cases c with
  | false => rfl
  | true => rfl

theorem State.resultSource_withOutside (t : State) :
    (s.withOutside dt st key strict).resultSource (t.withOutside dt st key strict) =
      (s.resultSource t).withOutside dt st key strict := by
  cases h : s.params.vfAliasOrder with
  | sequential =>
    rw [s.resultSource_sequential t h]
    exact State.resultSource_sequential _ _ h
  | latched =>
    rw [s.resultSource_latched t h]
    exact State.resultSource_latched _ _ h

/-- A result read off registers is the same whichever of the two states is its source. -/
theorem State.flagThenResult_withOutside (f : Bool) (x : Reg) {g : State → Byte}
    (hg : ∀ t : State, g (t.withOutside dt st key strict) = g t) :
    (s.withOutside dt st key strict).flagThenResult f x g =
      (s.flagThenResult f x g).withOutside dt st key strict := by
  have hsource : g ((s.withOutside dt st key strict).resultSource
      ((s.setVF f).withOutside dt st key strict)) = g (s.resultSource (s.setVF f)) := by
    rw [State.resultSource_withOutside, hg]
  exact congrArg (fun b => (((s.setVF f).setReg x b).advance 2).withOutside dt st key strict) hsource

theorem execRet_withOutside :
    execRet (s.withOutside dt st key strict) =
      afterwards (State.withOutside dt st key strict) (execRet s) := by
  rcases Nat.lt_or_ge 16 s.sp.toNat with habsent | h16
  · rw [execRet_of_absent habsent, execRet_of_absent (s := s.withOutside dt st key strict) habsent]
    rfl
  by_cases h0 : s.sp = 0
  · rw [execRet_of_empty h0, execRet_of_empty (s := s.withOutside dt st key strict) h0]
    rfl
  · have hlive : s.sp.toNat ≠ 0 := fun h => h0 (BitVec.eq_of_toNat_eq h)
    rw [execRet_of_live hlive h16, execRet_of_live (s := s.withOutside dt st key strict) hlive h16]
    rfl

theorem execCall_withOutside (nnn : Addr) :
    execCall nnn (s.withOutside dt st key strict) =
      afterwards (State.withOutside dt st key strict) (execCall nnn s) := by
  rcases Nat.lt_or_ge s.sp.toNat 16 with hroom | hfull
  · rw [execCall_of_room hroom, execCall_of_room (s := s.withOutside dt st key strict) hroom]
    rfl
  · rw [execCall_of_full hfull, execCall_of_full (s := s.withOutside dt st key strict) hfull]
    rfl

theorem execDraw_withOutside (x y : Reg) (n : Nibble) :
    execDraw x y n (s.withOutside dt st key strict) =
      afterwards (State.withOutside dt st key strict) (execDraw x y n s) := by
  cases h : s.spriteOutOfRange n with
  | false =>
    rw [execDraw_of_inRange h, execDraw_of_inRange (s := s.withOutside dt st key strict) h]
    rfl
  | true =>
    rw [execDraw_of_outOfRange h, execDraw_of_outOfRange (s := s.withOutside dt st key strict) h]
    rfl

/-- An unrecognised word reads the switch, so it is the switch of before here. -/
theorem unrecognised_withOutside (w : Word) :
    unrecognised w (s.withOutside dt st key s.params.strictUnimpl) =
      afterwards (State.withOutside dt st key s.params.strictUnimpl) (unrecognised w s) := by
  cases h : s.params.strictUnimpl with
  | false => rw [unrecognised_of_lenient h, unrecognised_of_lenient rfl]; rfl
  | true => rw [unrecognised_of_strict h, unrecognised_of_strict rfl]; rfl

end

/-- No instruction reads a timer or a key, and the 24 recognised ones do not read the switch. -/
theorem exec_withOutside {i : Instr} {s : State} {strict : Bool}
    (hi : i.row < 24 ∨ strict = s.params.strictUnimpl) (dt st : Byte) (key : Vector Bool 16) :
    exec i (s.withOutside dt st key strict) =
      afterwards (State.withOutside dt st key strict) (exec i s) := by
  cases i with
  | ret => exact execRet_withOutside dt st key strict s
  | call nnn => exact execCall_withOutside dt st key strict s nnn
  | draw x y n => exact execDraw_withOutside dt st key strict s x y n
  | seImm | sneImm | seReg | sneReg =>
    exact congrArg Host.Outcome.next (s.skipIf_withOutside dt st key strict _)
  | sub | shr | subn | shl =>
    exact congrArg Host.Outcome.next
      (s.flagThenResult_withOutside dt st key strict _ _ fun _ => rfl)
  | unrecognisedU5 | unrecognisedU8 | unrecognisedU9 | unrecognisedUE | unrecognisedUF =>
    obtain rfl := hi.resolve_left (by simp [Instr.row])
    exact unrecognised_withOutside dt st key s _
  | _ => rfl

theorem step_withOutside (dt st : Byte) (key : Vector Bool 16) (s : State) :
    step (s.withOutside dt st key s.params.strictUnimpl) =
      afterwards (State.withOutside dt st key s.params.strictUnimpl) (step s) := by
  by_cases hf : s.fault = .clear
  · cases hw : s.fetch with
    | none =>
      rw [step_of_fetch_none hf hw,
        step_of_fetch_none (s := s.withOutside dt st key s.params.strictUnimpl) hf hw]
      rfl
    | some w =>
      rw [step_of_fetch hf hw,
        step_of_fetch (s := s.withOutside dt st key s.params.strictUnimpl) hf hw,
        exec_withOutside (.inr rfl)]
  · rw [step_of_faulted hf,
      step_of_faulted (s := s.withOutside dt st key s.params.strictUnimpl) hf]
    rfl

/-! ### A `Tick` and a write of timers or keys (R129) -/

theorem exec_sameOutside {i : Instr} {s t : State} (h : exec i s = .next t) : SameOutside s t := by
  obtain ⟨hdt, hst, hkey, hmem, hparams⟩ := (exec_effect h).frame
  exact ⟨hdt, hst, hkey, State.memRead1_congr hmem, hparams⟩

theorem step_sameOutside {s t : State} (h : step s = .next t) : SameOutside s t := by
  obtain ⟨hdt, hst, hkey, hmem, hparams⟩ := step_frame h
  exact ⟨hdt, hst, hkey, State.memRead1_congr hmem, hparams⟩

/-- A `Tick` commutes with whatever writes timers and keys as a function of what a `Tick` keeps. -/
theorem step_commutes {f : State → State} {s : State} {dt st : Byte} {key : Vector Bool 16}
    (hf : ∀ t, SameOutside s t → f t = t.withOutside dt st key s.params.strictUnimpl) :
    step (f s) = afterwards f (step s) := by
  have hself : SameOutside s s := ⟨rfl, rfl, rfl, fun _ => rfl, rfl⟩
  rw [hf s hself, step_withOutside]
  exact afterwards_congr fun t ht => (hf t (step_sameOutside ht)).symm

theorem step_updateTimers (s : State) :
    step s.updateTimers = afterwards State.updateTimers (step s) := by
  refine step_commutes (dt := timerDown s.dt) (st := timerDown s.st) (key := s.key) ?_
  rintro t ⟨hdt, hst, hkey, -, hparams⟩
  rw [← hdt, ← hst, ← hkey, ← hparams]
  rfl

theorem step_keyWrite (k : Fin 16) (b : Bool) (s : State) :
    step (s.keyWrite k b) = afterwards (State.keyWrite k b) (step s) := by
  refine step_commutes (dt := s.dt) (st := s.st) (key := s.key.set k.val b) ?_
  rintro t ⟨hdt, hst, hkey, -, hparams⟩
  rw [← hdt, ← hst, ← hkey, ← hparams]
  rfl

theorem step_programView (s : State) :
    step s.programView = afterwards State.programView (step s) := by
  refine step_commutes (dt := 0) (st := 0) (key := Vector.replicate 16 false) ?_
  rintro t ⟨-, -, -, -, hparams⟩
  rw [← hparams]
  rfl

/-- Settles O55: a `Tick` commutes with either write, and the two write different elements. -/
theorem eventsCommute : Obligations.EventsCommute := fun s k b =>
  ⟨step_updateTimers s, step_keyWrite k b s, rfl⟩

/-! ### The result of a program (R129, R121, R125) -/

/-- The view of the outcome is the outcome of the `Tick`s alone from the view of the start. -/
theorem State.applyAll_programView {es : List Event} (hrun : ∀ e ∈ es, e.isRunning = true)
    (s : State) :
    afterwards State.programView (s.applyAll es) =
      s.programView.applyAll (es.filter Event.isTick) := by
  induction es generalizing s with
  | nil => rfl
  | cons e es ih =>
    obtain ⟨he, hes⟩ := List.forall_mem_cons.mp hrun
    cases e with
    | reset => cases he
    | loadProgram bytes => cases he
    | tick =>
      rw [List.filter_cons_of_pos rfl]
      simp only [State.applyAll, State.apply, step_programView]
      cases step s with
      | next t => exact ih hes t
      | fault r => rfl
      | refused r => rfl
    | updateTimers => exact ih hes s.updateTimers
    | keyWrite k b => exact ih hes (s.keyWrite k b)

/-- Settles O56: either history comes to the `Tick`s of the list, from the view of the start. -/
theorem resultIndependentOfTimersAndKeys : Obligations.ResultIndependentOfTimersAndKeys := by
  intro events s hrun
  have hticks : ∀ e ∈ events.filter Event.isTick, e.isRunning = true :=
    fun e he => hrun e (List.mem_of_mem_filter he)
  rw [State.applyAll_programView hrun, State.applyAll_programView hticks, List.filter_filter]
  simp only [Bool.and_self]

end Sys2Proof.Machine
end

section
/-! Faults: which one a `Tick` takes (R106, R114), that it is precise and stays (R113, R115), and the one
that `STRICT_UNIMPL` brings (R108). -/

namespace Sys2Proof.Machine

open Sys2Proof

/-! ### The one fault of an instruction (R106, R114) -/

/-- The fault of its own that an instruction takes in a state, if any: R106's table. -/
def State.ownFault (s : State) : Instr → FaultCode
  | .call _ => if 16 ≤ s.sp.toNat then .stackOverflow else .clear
  | .ret => if s.sp.toNat = 0 then .stackUnderflow else .clear
  | .draw _ _ n =>
    if 1 ≤ n.toNat ∧ 0xFFF < s.i.toNat + n.toNat - 1 then .dataOutOfRange else .clear
  | .unrecognisedU5 _ _ _ | .unrecognisedU8 _ _ _ | .unrecognisedU9 _ _ _ | .unrecognisedUE _
  | .unrecognisedUF _ => if s.params.strictUnimpl then .unimplementedOpcode else .clear
  | _ => .clear

theorem State.tickFault_of_fetch_none {s : State} (h : s.fetch = none) :
    s.tickFault = .fetchOutOfRange := by
  rw [State.tickFault, h]

/-- After the fetch the fault is that of the selected instruction (R114). -/
theorem State.tickFault_of_fetch {s : State} {w : Word} (h : s.fetch = some w) :
    s.tickFault = s.ownFault (decodeWord w) := by
  simp only [State.tickFault, h]
  cases decodeWord w <;> rfl

section

variable {s t : State} (hclear : s.fault = .clear)
include hclear

theorem State.raise_fault_of_clear (r : FaultReport) : (s.raise r).fault = r.code := by
  rw [State.raise_of_clear hclear]

theorem execRet_fault (h : execRet s = .next t) : t.fault = s.ownFault .ret := by
  rcases Nat.lt_or_ge 16 s.sp.toNat with habsent | h16
  · rw [execRet_of_absent habsent] at h
    cases h
  by_cases h0 : s.sp.toNat = 0
  · rw [execRet_of_empty (BitVec.eq_of_toNat_eq h0)] at h
    cases h
    rw [State.ownFault, if_pos h0]
    exact State.raise_fault_of_clear hclear _
  · rw [execRet_of_live h0 h16] at h
    cases h
    rw [State.ownFault, if_neg h0]
    exact hclear

theorem execCall_fault {nnn : Addr} (h : execCall nnn s = .next t) :
    t.fault = s.ownFault (.call nnn) := by
  rcases Nat.lt_or_ge s.sp.toNat 16 with hroom | hfull
  · rw [execCall_of_room hroom] at h
    cases h
    rw [State.ownFault, if_neg (Nat.not_le.mpr hroom)]
    exact hclear
  · rw [execCall_of_full hfull] at h
    cases h
    rw [State.ownFault, if_pos hfull]
    exact State.raise_fault_of_clear hclear _

theorem execDraw_fault {x y : Reg} {n : Nibble} (h : execDraw x y n s = .next t) :
    t.fault = s.ownFault (.draw x y n) := by
  cases hrange : s.spriteOutOfRange n with
  | false =>
    rw [execDraw_of_inRange hrange] at h
    cases h
    rw [State.ownFault, if_neg (of_decide_eq_false hrange)]
    exact hclear
  | true =>
    rw [execDraw_of_outOfRange hrange] at h
    cases h
    rw [State.ownFault, if_pos (of_decide_eq_true hrange)]
    exact State.raise_fault_of_clear hclear _

theorem unrecognised_fault {w : Word} (h : unrecognised w s = .next t) :
    t.fault = if s.params.strictUnimpl then .unimplementedOpcode else .clear := by
  cases hstrict : s.params.strictUnimpl with
  | false =>
    rw [unrecognised_of_lenient hstrict] at h
    cases h
    exact hclear
  | true =>
    rw [unrecognised_of_strict hstrict] at h
    cases h
    exact State.raise_fault_of_clear hclear _

/-- The latch an instruction leaves on a machine without a fault: at most its own fault. -/
theorem exec_fault {i : Instr} (h : exec i s = .next t) : t.fault = s.ownFault i := by
  cases i with
  | ret => exact execRet_fault hclear h
  | call => exact execCall_fault hclear h
  | draw => exact execDraw_fault hclear h
  | unrecognisedU5 | unrecognisedU8 | unrecognisedU9 | unrecognisedUE | unrecognisedUF =>
    exact unrecognised_fault hclear h
  | seImm | sneImm | seReg | sneReg => cases h; exact (State.skipIf_fault s _).trans hclear
  | _ => cases h; exact hclear

theorem step_fault (h : step s = .next t) : t.fault = s.tickFault := by
  obtain ⟨hfaulted, -⟩ | ⟨-, hnone, rfl⟩ | ⟨-, w, hw, hexec⟩ := step_next_cases h
  · exact absurd hclear hfaulted
  · exact (State.tickFault_of_fetch_none hnone).symm
  · rw [State.tickFault_of_fetch hw, exec_fault hclear hexec]

end

/-- Settles O16: the fetch's fault, or the own fault of the instruction fetched. -/
theorem tickFaultIsTheTables : Obligations.TickFaultIsTheTables :=
  fun _ _ => step_fault

/-! ### A fault is precise and stays (R113, R115) -/

/-- An instruction that changes the latch changes nothing else. -/
theorem Effect.eq_of_fault_ne {s t : State} {i : Instr} (e : Effect s i t)
    (h : t.fault ≠ s.fault) : t = { s with fault := t.fault } := by
  cases e with
  | faults => rfl
  | _ => exact (h rfl).elim

theorem step_eq_of_fault_ne {s t : State} (h : step s = .next t) (hne : t.fault ≠ s.fault) :
    t = { s with fault := t.fault } := by
  obtain ⟨-, rfl⟩ | ⟨-, -, rfl⟩ | ⟨-, w, -, hexec⟩ := step_next_cases h
  · rfl
  · rfl
  · exact (exec_effect hexec).eq_of_fault_ne hne

theorem State.loadProgram_fault_of_fits (s : State) {bytes : List Byte} (h : bytes.length ≤ 3584) :
    (s.loadProgram bytes).fault = s.fault := by
  rw [State.loadProgram_of_fits s h, State.memWriteAll_fault]

/-- Settles O15: of the events other than `Reset` a `Tick` and a load of too long an image alone change
the latch, and only a clear one. -/
theorem faultIsPrecise : Obligations.FaultIsPrecise := by
  intro s t e hreset h hne
  have hclear : s.fault = .clear := by
    by_contra hfaulted
    exact hne (State.apply_fault_of_faulted hfaulted hreset h)
  refine ⟨hclear, ?_⟩
  cases e with
  | reset => exact absurd rfl hreset
  | loadProgram bytes =>
    cases h
    rcases Nat.lt_or_ge 3584 bytes.length with hlong | hfits
    · rw [State.loadProgram_of_long s hlong]
      exact ⟨rfl, .inr ⟨bytes, rfl, hlong, State.raise_fault_of_clear hclear _⟩⟩
    · exact absurd (s.loadProgram_fault_of_fits hfits) hne
  | tick => exact ⟨step_eq_of_fault_ne h hne, .inl ⟨rfl, step_fault hclear h⟩⟩
  | updateTimers => cases h; exact (hne rfl).elim
  | keyWrite k b => cases h; exact (hne rfl).elim

/-- Settles O14: a faulted machine does not move, and its latch no event but `Reset` changes. -/
theorem latchIsSticky : Obligations.LatchIsSticky :=
  ⟨fun _ hf => ⟨step_of_faulted hf, State.traceRecord_of_faulted hf⟩,
    fun _ _ _ => State.apply_fault_of_faulted, fun _ => rfl⟩

/-- Settles O41: the bounds are tested before anything is written. -/
theorem drawOutOfRangeFaults : Obligations.DrawOutOfRangeFaults := fun x y _ _ hn hlast =>
  ⟨_, execDraw_of_outOfRange (decide_eq_true ⟨hn, hlast⟩) x y, rfl⟩

/-! ### The switch `STRICT_UNIMPL` (R100, R108) -/

theorem State.ownFault_ne_unimplementedOpcode {s : State} (h : s.params.strictUnimpl = false)
    (i : Instr) : s.ownFault i ≠ .unimplementedOpcode := by
  cases i with
  | ret | call | draw =>
    rw [State.ownFault]
    split
    · decide
    · decide
  | unrecognisedU5 | unrecognisedU8 | unrecognisedU9 | unrecognisedUE | unrecognisedUF =>
    rw [State.ownFault, h]
    decide
  | _ => exact FaultCode.noConfusion

/-- The switch has no effect on a recognised instruction. -/
theorem exec_setStrict {i : Instr} (hi : i.row < 24) (s : State) (b : Bool) :
    exec i (s.setStrict b) = afterwards (State.setStrict b) (exec i s) := by
  refine (exec_withOutside (.inl hi) s.dt s.st s.key).trans (afterwards_congr fun t ht => ?_)
  obtain ⟨hdt, hst, hkey, -, -⟩ := exec_sameOutside ht
  rw [← hdt, ← hst, ← hkey]
  rfl

/-- Settles O44: the one operation of the five groups on the strict machine, the table of faults on the
lenient one, and the recognised instructions under either setting. -/
theorem unrecognisedStrictFaults : Obligations.UnrecognisedStrictFaults := by
  refine ⟨fun x y n nnn s hstrict i hi => ?_, fun i s t hlenient hclear h => ?_,
    fun i s b hi => exec_setStrict hi s b⟩
  · refine ⟨s.raise (.unimplementedOpcode s.pc (encode i)), ?_, rfl⟩
    rw [exec_eq_unrecognised_encode hi, unrecognised_of_strict hstrict]
  · rw [exec_fault hclear h]
    exact State.ownFault_ne_unimplementedOpcode hlenient i

end Sys2Proof.Machine
end

section
/-! The two events that write timers and keys: `UpdateTimers` (R120) and `KeyWrite` (R124). -/

namespace Sys2Proof.Machine

open Sys2Proof

theorem timerDown_toNat (t : Byte) : (timerDown t).toNat = t.toNat - 1 := by
  rw [timerDown]
  split <;> bv_omega

/-- Settles O47: each timer's share, and no other element is written. -/
theorem updateTimersCountsDown : Obligations.UpdateTimersCountsDown := fun s =>
  ⟨s.updateTimers, rfl, timerDown_toNat s.dt, timerDown_toNat s.st, rfl⟩

theorem State.keyWrite_key_getElem (s : State) (k j : Fin 16) (b : Bool) :
    (s.keyWrite k b).key[j.val] = if j = k then b else s.key[j.val] := by
  rw [State.keyWrite_key, Vector.getElem_set]
  simp only [Fin.val_inj, eq_comm]

/-- Settles O48: the flags after the write, and no other element is written. -/
theorem keyWriteSetsOneFlag : Obligations.KeyWriteSetsOneFlag := fun s k b =>
  ⟨s.keyWrite k b, rfl, fun j => s.keyWrite_key_getElem k j b, rfl⟩

end Sys2Proof.Machine
end

section
/-! The `Reset` event (R131), and the launch premises (R139): what they say of a state, and how a host
meets them (R133). -/

namespace Sys2Proof.Machine

open Sys2Proof

/-! ### The `Reset` event (R131) -/

theorem State.resetEvent_resetValues (s : State) : s.resetEvent.ResetValues :=
  resetLeavesItsValues

/-- Settles O46: the elements are those of the state after reset; the parameters and the draws stay. -/
theorem resetEventFromAnyState : Obligations.ResetEventFromAnyState := fun s =>
  ⟨s.resetEvent, rfl, s.resetEvent_resetValues, rfl, rfl, rfl⟩

/-! ### Histories from a fresh reset (R139) -/

/-- What holds of a fresh reset and is kept by every other event holds of each state a history leads to,
with what has happened since its last `Reset`. -/
theorem State.applyAll_induction {P : List Event → State → Prop}
    (hfresh : ∀ s : State, s.FreshReset → P [] s)
    (hevent : ∀ (past : List Event) (s t : State) (e : Event), e ≠ .reset → s.apply e = .next t →
      P past s → P (past ++ [e]) t)
    {s0 : State} (h0 : s0.FreshReset) {events : List Event} {s : State}
    (h : s0.applyAll events = .next s) : P (sinceReset events) s := by
  induction events using List.reverseRecOn generalizing s with
  | nil => cases h; exact hfresh s0 h0
  | append_singleton past e ih =>
    obtain ⟨r, hr, he⟩ := State.applyAll_append.mp h
    rw [State.applyAll_single] at he
    by_cases hreset : e = .reset
    · subst hreset
      cases he
      rw [sinceReset_reset]
      exact hfresh r.resetEvent rfl
    · rw [sinceReset_concat past hreset]
      exact hevent _ r s e hreset he (ih hr)

/-- Without `Reset` a state with no fault comes from one with no fault (R115). -/
theorem State.NoFault.of_apply {s t : State} {e : Event} (hreset : e ≠ .reset)
    (h : s.apply e = .next t) (ht : t.NoFault) : s.NoFault := by
  by_contra hfaulted
  exact hfaulted ((State.apply_fault_of_faulted hfaulted hreset h).symm.trans ht)

theorem State.NoFault.fits {s : State} {bytes : List Byte} (hs : s.NoFault)
    (h : (s.loadProgram bytes).NoFault) : bytes.length ≤ 3584 := by
  by_contra hlong
  rw [State.loadProgram_of_long s (Nat.not_le.mp hlong), State.NoFault,
    State.raise_fault_of_clear hs] at h
  cases h

/-! ### Before the first `Tick` all but the keys and memory is at reset (R132, R139) -/

/-- Every element but the keys and memory at its reset value; the parameters and draws are its own. -/
def State.AtResetButKeysMem (s : State) : Prop :=
  { s with key := State.reset.key, mem := [] } = s.resetEvent

theorem State.FreshReset.atResetButKeysMem {s : State} (h : s.FreshReset) : s.AtResetButKeysMem := by
  rw [h]
  rfl

theorem State.AtResetButKeysMem.loadProgram {s : State} (h : s.AtResetButKeysMem) {bytes : List Byte}
    (hfits : bytes.length ≤ 3584) : (s.loadProgram bytes).AtResetButKeysMem := by
  rw [State.loadProgram_of_fits s hfits]
  simpa [State.AtResetButKeysMem, State.resetEvent] using h

/-- Both timers stand at 0, so nothing counts down (R120). -/
theorem State.AtResetButKeysMem.updateTimers {s : State} (h : s.AtResetButKeysMem) :
    s.updateTimers.AtResetButKeysMem :=
  congrArg State.updateTimers h

theorem State.AtResetButKeysMem.apply {s t : State} {e : Event} (hs : s.AtResetButKeysMem)
    (hreset : e ≠ .reset) (htick : e ≠ .tick) (h : s.apply e = .next t) (ht : t.NoFault) :
    t.AtResetButKeysMem := by
  cases e with
  | reset => exact absurd rfl hreset
  | loadProgram bytes =>
    have hclear : s.NoFault := .of_apply hreset h ht
    cases h
    exact hs.loadProgram (hclear.fits ht)
  | tick => exact absurd rfl htick
  | updateTimers => cases h; exact hs.updateTimers
  | keyWrite k b => cases h; exact hs

theorem State.atResetButKeysMem_of_noTickYet {s0 s : State} {events : List Event} (h0 : s0.FreshReset)
    (h : s0.applyAll events = .next s) (hclear : s.NoFault) (hnotick : NoTickYet events) :
    s.AtResetButKeysMem := by
  refine State.applyAll_induction
    (P := fun past s => s.NoFault → Event.tick ∉ past → s.AtResetButKeysMem)
    (fun _ hfresh _ _ => hfresh.atResetButKeysMem) ?_ h0 h hclear hnotick
  intro past s t e hreset he ih ht hpast
  rw [List.mem_append, List.mem_singleton, not_or] at hpast
  obtain ⟨hpast, htick⟩ := hpast
  exact (ih (.of_apply hreset he ht) hpast).apply hreset (Ne.symm htick) he ht

/-! ### What memory holds after the loads since `Reset` (R44, R133) -/

/-- The image at 0x200 and 0 everywhere else. -/
def State.HoldsImage (image : List Byte) (s : State) : Prop :=
  (∀ k (h : k < image.length), s.memRead1 (0x200 + k) = some image[k]) ∧
  (∀ a, a ≤ 0xFFF → (a < 0x200 ∨ 0x200 + image.length ≤ a) → s.memRead1 a = some 0)

/-- What memory holds after the successful loads since `Reset`: nothing after none, the image after one.
A second load is outside the host's contract (R133), and nothing is said of it. -/
def State.HoldsLoads : List (List Byte) → State → Prop
  | [], s => s.mem = []
  | [image], s => s.HoldsImage image
  | _ :: _ :: _, _ => True

theorem State.HoldsLoads.of_mem_eq {s t : State} {loads : List (List Byte)} (h : s.HoldsLoads loads)
    (hmem : t.mem = s.mem) : t.HoldsLoads loads := by
  match loads with
  | [] => exact hmem.trans h
  | [image] =>
    obtain ⟨himage, hzero⟩ := h
    exact ⟨fun k hk => (State.memRead1_congr hmem _).trans (himage k hk),
      fun a ha hout => (State.memRead1_congr hmem a).trans (hzero a ha hout)⟩
  | _ :: _ :: _ => trivial

theorem State.loadProgram_holdsImage {s : State} (hmem : s.mem = []) {image : List Byte}
    (hfits : image.length ≤ 3584) : (s.loadProgram image).HoldsImage image := by
  have hwf : Memory.wf s.mem = true := by rw [hmem]; rfl
  refine ⟨fun k hk => State.memRead1_loadProgram_image hwf hfits hk, fun a ha hout => ?_⟩
  rw [State.memRead1_loadProgram_outside hwf hfits hout, State.memRead1_of_lt s (by omega), hmem]
  rfl

theorem State.HoldsLoads.loadProgram {s : State} {loads : List (List Byte)} (h : s.HoldsLoads loads)
    {bytes : List Byte} (hfits : bytes.length ≤ 3584) :
    (s.loadProgram bytes).HoldsLoads (loads ++ [bytes]) := by
  match loads with
  | [] => exact State.loadProgram_holdsImage h hfits
  | [_] => trivial
  | _ :: _ :: _ => trivial

/-- Only a load that succeeds writes memory: another event keeps it, and so does a load that fails. -/
theorem State.apply_mem_of_loadedImage_none {s t : State} {e : Event} (hreset : e ≠ .reset)
    (hnone : e.loadedImage = none) (h : s.apply e = .next t) : t.mem = s.mem := by
  obtain ⟨-, hkeeps⟩ := tickLeavesTimersKeysMemory
  by_cases hload : ∃ bytes, e = .loadProgram bytes
  · obtain ⟨bytes, rfl⟩ := hload
    cases h
    have hlong : ¬ bytes.length ≤ 3584 := by simpa [Event.loadedImage_loadProgram] using hnone
    rw [State.loadProgram_of_long s (Nat.not_le.mp hlong), State.raise_mem]
  · exact hkeeps s t e hreset (not_exists.mp hload) h

theorem Event.loadedImage_eq_some {e : Event} {image : List Byte} (h : e.loadedImage = some image) :
    e = .loadProgram image ∧ image.length ≤ 3584 := by
  cases e with
  | loadProgram bytes =>
    rw [Event.loadedImage_loadProgram, Option.ite_none_right_eq_some] at h
    obtain ⟨hfits, hbytes⟩ := h
    cases hbytes
    exact ⟨rfl, hfits⟩
  | reset | tick | updateTimers | keyWrite k b => cases h

theorem State.HoldsLoads.apply {s t : State} {past : List Event} {e : Event}
    (hs : s.HoldsLoads (past.filterMap Event.loadedImage)) (hreset : e ≠ .reset)
    (h : s.apply e = .next t) : t.HoldsLoads ((past ++ [e]).filterMap Event.loadedImage) := by
  rw [List.filterMap_append]
  cases hload : e.loadedImage with
  | none =>
    rw [List.filterMap_cons_none hload, List.filterMap_nil, List.append_nil]
    exact hs.of_mem_eq (State.apply_mem_of_loadedImage_none hreset hload h)
  | some image =>
    rw [List.filterMap_cons_some hload, List.filterMap_nil]
    obtain ⟨rfl, hfits⟩ := Event.loadedImage_eq_some hload
    cases h
    exact hs.loadProgram hfits

theorem State.holdsImage_of_loaded {s0 s : State} {events : List Event} {image : List Byte}
    (h0 : s0.FreshReset) (h : s0.applyAll events = .next s) (hloaded : Loaded image events) :
    s.HoldsImage image := by
  have hloads : s.HoldsLoads ((sinceReset events).filterMap Event.loadedImage) :=
    State.applyAll_induction (P := fun past s => s.HoldsLoads (past.filterMap Event.loadedImage))
      (fun r hfresh => congrArg State.mem hfresh)
      (fun _ _ _ _ hreset he hs => hs.apply hreset he) h0 h
  rwa [hloaded] at hloads

theorem Loaded.fits {image : List Byte} {events : List Event} (h : Loaded image events) :
    image.length ≤ 3584 := by
  have hmem : image ∈ (sinceReset events).filterMap Event.loadedImage := by
    rw [h]
    exact List.mem_singleton_self image
  obtain ⟨e, -, he⟩ := List.mem_filterMap.mp hmem
  obtain ⟨-, hfits⟩ := Event.loadedImage_eq_some he
  exact hfits

/-- Settles O57: along the history, all but the keys and memory stays at reset until the first `Tick`,
and memory is written by the one load alone. -/
theorem launchedStateIsTheImage : Obligations.LaunchedStateIsTheImage := by
  rintro image s ⟨s0, events, h0, h, hloaded, hclear, hnotick⟩
  exact ⟨hloaded.fits, State.atResetButKeysMem_of_noTickYet h0 h hclear hnotick,
    State.holdsImage_of_loaded h0 h hloaded⟩

/-! ### How a host meets the launch premises (R133, R139) -/

/-- A running event other than a `Tick`: `UpdateTimers` or `KeyWrite`. -/
def Event.Idle (e : Event) : Prop := e.isRunning = true ∧ e.isTick = false

theorem Event.Idle.loadedImage {e : Event} (h : e.Idle) : e.loadedImage = none := by
  obtain ⟨hrun, -⟩ := h
  cases e with
  | loadProgram bytes => cases hrun
  | reset | tick | updateTimers | keyWrite k b => rfl

theorem Event.Idle.apply {e : Event} (h : e.Idle) (s : State) :
    ∃ t, s.apply e = .next t ∧ t.fault = s.fault := by
  obtain ⟨hrun, hidle⟩ := h
  cases e with
  | reset | loadProgram bytes => cases hrun
  | tick => cases hidle
  | updateTimers => exact ⟨s.updateTimers, rfl, rfl⟩
  | keyWrite k b => exact ⟨s.keyWrite k b, rfl, rfl⟩

theorem State.applyAll_idle {es : List Event} (hidle : ∀ e ∈ es, e.Idle) (s : State) :
    ∃ t, s.applyAll es = .next t ∧ t.fault = s.fault := by
  induction es generalizing s with
  | nil => exact ⟨s, rfl, rfl⟩
  | cons e es ih =>
    obtain ⟨he, hes⟩ := List.forall_mem_cons.mp hidle
    obtain ⟨r, hr, hrf⟩ := he.apply s
    obtain ⟨t, ht, htf⟩ := ih hes r
    exact ⟨t, by rw [State.applyAll, hr]; exact ht, htf.trans hrf⟩

theorem State.FreshReset.noFault {s : State} (h : s.FreshReset) : s.NoFault :=
  congrArg State.fault h

section
variable {before after : List Event} {image : List Byte}
  (hidle : ∀ e ∈ before ++ after, e.Idle)
include hidle

/-- The load is the one event of the history that is not idle. -/
theorem Event.idle_or_eq_load {e : Event} (he : e ∈ before ++ .loadProgram image :: after) :
    e.Idle ∨ e = .loadProgram image := by
  rw [List.mem_append, List.mem_cons] at he
  obtain hbefore | rfl | hafter := he
  · exact .inl (hidle e (List.mem_append_left after hbefore))
  · exact .inr rfl
  · exact .inl (hidle e (List.mem_append_right before hafter))

theorem sinceReset_load_between_idle :
    sinceReset (before ++ .loadProgram image :: after) = before ++ .loadProgram image :: after := by
  refine sinceReset_of_no_reset fun hmem => ?_
  obtain ⟨hrun, -⟩ | heq := Event.idle_or_eq_load hidle hmem
  · cases hrun
  · cases heq

theorem noTickYet_load_between_idle : NoTickYet (before ++ .loadProgram image :: after) := by
  rw [NoTickYet, sinceReset_load_between_idle hidle]
  intro hmem
  obtain ⟨-, htick⟩ | heq := Event.idle_or_eq_load hidle hmem
  · cases htick
  · cases heq

theorem loaded_load_between_idle (hfits : image.length ≤ 3584) :
    Loaded image (before ++ .loadProgram image :: after) := by
  have hnone : ∀ e ∈ before ++ after, e.loadedImage = none := fun e he => (hidle e he).loadedImage
  obtain ⟨hbefore, hafter⟩ := List.forall_mem_append.mp hnone
  rw [Loaded, sinceReset_load_between_idle hidle, List.filterMap_append,
    List.filterMap_eq_nil_iff.mpr hbefore,
    List.filterMap_cons_some ((Event.loadedImage_loadProgram image).trans (if_pos hfits)),
    List.filterMap_eq_nil_iff.mpr hafter, List.nil_append]

theorem State.applyAll_load_between_idle (hfits : image.length ≤ 3584) (s : State) :
    ∃ t, s.applyAll (before ++ .loadProgram image :: after) = .next t ∧ t.fault = s.fault := by
  obtain ⟨hbefore, hafter⟩ := List.forall_mem_append.mp hidle
  obtain ⟨r, hr, hrf⟩ := State.applyAll_idle hbefore s
  obtain ⟨t, ht, htf⟩ := State.applyAll_idle hafter (r.loadProgram image)
  refine ⟨t, State.applyAll_append.mpr ⟨r, hr, ht⟩, ?_⟩
  rw [htf, State.loadProgram_fault_of_fits r hfits, hrf]

end

/-- Settles O58: the history itself is the witness; the events about the load neither load, nor fault,
nor tick. -/
theorem loadLaunches : Obligations.LoadLaunches := by
  intro before after image s0 h0 hfits hidle
  obtain ⟨s, hs, hfault⟩ := State.applyAll_load_between_idle hidle hfits s0
  exact ⟨s, hs, s0, _, h0, hs, loaded_load_between_idle hidle hfits, hfault.trans h0.noFault,
    noTickYet_load_between_idle hidle⟩

end Sys2Proof.Machine
end
